-- ==== Sys2Proof/Word.lean ====
section
/-! DEFINITION. The widths of the spec's values: the operand word, the colour, a surface cell and
the command word (00_scope.md R5, 10_state.md R21, R24, R31, 30_encoding.md R70). -/

namespace Sys2Proof

/-- A 32-bit register or operand field (XLEN); its value is the two's-complement integer `toInt`
(10_state.md R21). -/
abbrev Word := BitVec 32

/-- A command code, an 8-bit unsigned value (10_state.md R24). -/
abbrev OpCode := BitVec 8

/-- A 24-bit colour: bits 7:0 red, 15:8 green, 23:16 blue (10_state.md R24). -/
abbrev Color := BitVec 24

/-- One surface cell of 32 bits (PIXLEN), laid out alpha, blue, green, red (20_memory.md R51). -/
abbrev Pixel := BitVec 32

/-- A command word of 160 bits (CMDLEN, 30_encoding.md R70). -/
abbrev Command := BitVec 160

/-- One byte of the canonical byte form (30_encoding.md R71). -/
abbrev Byte := BitVec 8

end Sys2Proof
end

