-- ==== Sys2Proof/Config.lean ====
section
/-! DEFINITION. What the spec leaves to the launch of the unit: the surface size that
`State.reset` takes, and the free values (00_scope.md R5, 10_state.md R35,
70_reset_and_hazards.md R185, R187). A free value is an opaque constant without a body: nothing
can be proved of its value. -/

namespace Sys2Proof

/-- The parameter `W` at which `State.reset` stands. DESIGN CHOICE (log 4, unsafe): the spec leaves
`W` a parameter; `State.resetWith` takes any value and no statement rests on this one. -/
def Config.surfaceWidth : BitVec 16 := 10

/-- The parameter `H` at which `State.reset` stands. DESIGN CHOICE (log 4, unsafe). -/
def Config.surfaceHeight : BitVec 16 := 10

/-- `SURF_INIT` (R5, R187): what a cell holds that nothing has written. The first argument counts
the host's resets, because two reads at different resets must not be taken to agree (R187; log 2).
The second is the cell index. -/
opaque Config.surfInit : Nat → Nat → Pixel

/-- `OP` after the given reset step (R185: unspecified; log 6). -/
opaque Config.resetOp : Nat → OpCode

/-- `COLOR` after the given reset step (R185: unspecified; log 6). -/
opaque Config.resetColor : Nat → Color

/-- `A[i]` after the given reset step, `i` the second argument (R185: unspecified; log 6). -/
opaque Config.resetOperand : Nat → Fin 4 → Word

/-- `CX` after the given reset step (R185: unspecified; log 6). -/
opaque Config.resetCx : Nat → Word

/-- `CY` after the given reset step (R185: unspecified; log 6). -/
opaque Config.resetCy : Nat → Word

/-- `ERR` after the given reset step (R185: unspecified; log 6). -/
opaque Config.resetErr : Nat → Int

end Sys2Proof
end

