-- ==== Sys2Proof/Syntax.lean ====
section
/-! DEFINITION. The three commands, one constructor per row of the opcode table
(30_encoding.md R72). -/

namespace Sys2Proof

/-- A command of the unit. The fields are those of the one format CMD160 (30_encoding.md R70): the
colour `{CB, CG, CR}` and the operand fields `A0` to `A3`. The types have the fields' widths, so
every term can be encoded. -/
inductive Instr where
  /-- POINT: `a0` is x, `a1` is y; `a2` and `a3` are carried and latched, never read
  (41_point.md R110, 30_encoding.md R74). -/
  | point (color : Color) (a0 a1 a2 a3 : Word)
  /-- LINE: from `(a0, a1)` to `(a2, a3)` (43_line.md R130). -/
  | line (color : Color) (a0 a1 a2 a3 : Word)
  /-- RECT: corner `(a0, a1)`, width `a2`, height `a3` (42_rect.md R117). -/
  | rect (color : Color) (a0 a1 a2 a3 : Word)
  deriving DecidableEq, Repr

end Sys2Proof
end

