-- ==== Sys2Proof/WellFormed.lean ====
section
/-! DEFINITION. The textual form of a command (30_encoding.md R80), its range checks, and its
assembly. `Instr` itself needs no check: its field types are exactly the field widths, so a term
out of range cannot be written. A listing carries decimal integers, so it can be out of range, and
`Listing.wellFormed` refuses it. -/

namespace Sys2Proof

/-- A line of the listing form of R80: `point x, y, rgb(r, g, b)` and so on, with the decimal
integers as they are written. -/
inductive Listing where
  | point (x y : Int) (r g b : Nat)
  | line (x1 y1 x2 y2 : Int) (r g b : Nat)
  | rect (x y width height : Int) (r g b : Nat)
  deriving DecidableEq, Repr

/-- R80: a coordinate or size is in -2147483648 to 2147483647. -/
def coordInRange (v : Int) : Bool := decide (-2147483648 ≤ v ∧ v ≤ 2147483647)

/-- R80: a channel is in 0 to 255. -/
def channelInRange (c : Nat) : Bool := decide (c ≤ 255)

/-- R80: every number of the listing is in its range. -/
def Listing.wellFormed : Listing → Bool
  | .point x y r g b =>
      coordInRange x && coordInRange y && channelInRange r && channelInRange g && channelInRange b
  | .line x1 y1 x2 y2 r g b =>
      coordInRange x1 && coordInRange y1 && coordInRange x2 && coordInRange y2 &&
        channelInRange r && channelInRange g && channelInRange b
  | .rect x y width height r g b =>
      coordInRange x && coordInRange y && coordInRange width && coordInRange height &&
        channelInRange r && channelInRange g && channelInRange b

/-- The colour `{CB, CG, CR}`, that is `(b<<16)|(g<<8)|r` (R70). -/
def rgb (r g b : Nat) : Color :=
  BitVec.ofNat 8 b ++ BitVec.ofNat 8 g ++ BitVec.ofNat 8 r

/-- R80: what a listing assembles to; the fields a `point` does not use are written as zero. -/
def Listing.assemble : Listing → Instr
  | .point x y r g b => .point (rgb r g b) (BitVec.ofInt 32 x) (BitVec.ofInt 32 y) 0 0
  | .line x1 y1 x2 y2 r g b =>
      .line (rgb r g b) (BitVec.ofInt 32 x1) (BitVec.ofInt 32 y1)
        (BitVec.ofInt 32 x2) (BitVec.ofInt 32 y2)
  | .rect x y width height r g b =>
      .rect (rgb r g b) (BitVec.ofInt 32 x) (BitVec.ofInt 32 y)
        (BitVec.ofInt 32 width) (BitVec.ofInt 32 height)

end Sys2Proof
end

