-- ==== Sys2Proof/Decode.lean ====
section
/-! DEFINITION. The decoder, total on every command word and every list of bytes, and the encoder
(30_encoding.md R70 to R76). -/

namespace Sys2Proof

/-- Why a word or a byte list is no command. -/
inductive DecodeError where
  /-- `OP` is none of 0x0C, 0x0D, 0x0E (R76); the unit answers with IllegalCommand. -/
  | illegalOp (op : OpCode)
  /-- A byte listing that is not 20 bytes long (R71: there is no partly transferred command). -/
  | notTwentyBytes (length : Nat)
  deriving DecidableEq, Repr

/-- The code of POINT (R72). -/
def opPoint : OpCode := 0x0C

/-- The code of LINE (R72). -/
def opLine : OpCode := 0x0D

/-- The code of RECT (R72). -/
def opRect : OpCode := 0x0E

/-! The fields of the command word (R70, R73). -/

/-- `OP = cmd[159:152]`. -/
def cmdOp (cmd : Command) : OpCode := cmd.extractLsb' 152 8

/-- `COLOR = cmd[151:128]`. -/
def cmdColor (cmd : Command) : Color := cmd.extractLsb' 128 24

/-- `A0 = cmd[127:96]`. -/
def cmdA0 (cmd : Command) : Word := cmd.extractLsb' 96 32

/-- `A1 = cmd[95:64]`. -/
def cmdA1 (cmd : Command) : Word := cmd.extractLsb' 64 32

/-- `A2 = cmd[63:32]`. -/
def cmdA2 (cmd : Command) : Word := cmd.extractLsb' 32 32

/-- `A3 = cmd[31:0]`. -/
def cmdA3 (cmd : Command) : Word := cmd.extractLsb' 0 32

/-- R75: decoding looks at `OP` only. R76: every other code is illegal. -/
def decode (cmd : Command) : Except DecodeError Instr :=
  if cmdOp cmd = opPoint then
    .ok (.point (cmdColor cmd) (cmdA0 cmd) (cmdA1 cmd) (cmdA2 cmd) (cmdA3 cmd))
  else if cmdOp cmd = opLine then
    .ok (.line (cmdColor cmd) (cmdA0 cmd) (cmdA1 cmd) (cmdA2 cmd) (cmdA3 cmd))
  else if cmdOp cmd = opRect then
    .ok (.rect (cmdColor cmd) (cmdA0 cmd) (cmdA1 cmd) (cmdA2 cmd) (cmdA3 cmd))
  else .error (.illegalOp (cmdOp cmd))

/-- The word whose bytes, most significant first, are the given ones: each byte shifts the word so
far up by eight bits (R71). -/
def wordOfBytes (bytes : List Byte) : Command :=
  bytes.foldl (fun w b => (w <<< 8) ||| b.setWidth 160) 0

/-- R71: the command word of a byte listing. -/
def commandOfBytes (bytes : List Byte) : Except DecodeError Command :=
  if bytes.length = 20 then .ok (wordOfBytes bytes) else .error (.notTwentyBytes bytes.length)

/-- The decoder on a byte listing. -/
def decodeBytes (bytes : List Byte) : Except DecodeError Instr :=
  match commandOfBytes bytes with
  | .ok cmd => decode cmd
  | .error e => .error e

/-- The command word of a row of the opcode table: `nbits` bits of `w`, bit 0 the least significant
bit of the one 160-bit word, every bit above them zero. -/
def tableWord (nbits w : Nat) : Command := BitVec.ofNat 160 (w % 2 ^ nbits)

/-- The instruction the decoder reads from a table word. -/
def decodeTableWord (nbits w : Nat) : Option Instr :=
  if nbits ≤ 160 then
    match decode (tableWord nbits w) with
    | .ok i => some i
    | .error _ => none
  else none

/-! The encoder. -/

/-- R72: the code of a command. -/
def opcodeOf : Instr → OpCode
  | .point .. => opPoint
  | .line .. => opLine
  | .rect .. => opRect

/-- R70: the word `{OP, CB, CG, CR, A0, A1, A2, A3}`. -/
def packCommand (op : OpCode) (color : Color) (a0 a1 a2 a3 : Word) : Command :=
  op ++ color ++ a0 ++ a1 ++ a2 ++ a3

/-- The word of a command (R70, R72). -/
def encode : Instr → Command
  | .point color a0 a1 a2 a3 => packCommand opPoint color a0 a1 a2 a3
  | .line color a0 a1 a2 a3 => packCommand opLine color a0 a1 a2 a3
  | .rect color a0 a1 a2 a3 => packCommand opRect color a0 a1 a2 a3

/-- R71: the canonical byte form, 20 bytes, byte 0 the most significant. -/
def bytesOfCommand (cmd : Command) : List Byte :=
  (List.range 20).map fun k => cmd.extractLsb' (152 - 8 * k) 8

/-! The opcode table in match and mask form (R75). -/

/-- A row of the table of R75. -/
structure OpcodeRow where
  mnemonic : String
  matchBits : Command
  maskBits : Command
  deriving DecidableEq, Repr

/-- R75: the mask of every row, `0xFF` followed by 38 hexadecimal zeros. -/
def opcodeMask : Command := 0xFF00000000000000000000000000000000000000

/-- R75: the three rows. -/
def opcodeTable : List OpcodeRow :=
  [ ⟨"POINT", 0x0C00000000000000000000000000000000000000, opcodeMask⟩,
    ⟨"LINE", 0x0D00000000000000000000000000000000000000, opcodeMask⟩,
    ⟨"RECT", 0x0E00000000000000000000000000000000000000, opcodeMask⟩ ]

/-- The table's name of a command (R72). -/
def mnemonicOf : Instr → String
  | .point .. => "POINT"
  | .line .. => "LINE"
  | .rect .. => "RECT"

end Sys2Proof
end

