-- ==== Sys2Proof/Machine/State.lean ====
section
/-! DEFINITION. The state of the unit and of the host as plain data, the reasons a step can stop,
and the state after reset (10_state.md, 60_exceptions.md R166, 70_reset_and_hazards.md R185). -/

namespace Sys2Proof.Machine

/-- `PHASE` (10_state.md R26): the four values of the 2-bit register, by name. -/
inductive Phase where
  /-- 0: no command is running; the unit can accept one. -/
  | idle
  /-- 1: a RECT runs; `(CX, CY)` is the next cell to write. -/
  | rect
  /-- 2: a LINE runs; `(CX, CY)` is the next point to visit. -/
  | line
  /-- 3: an illegal command was offered; nothing is accepted until reset. -/
  | fault
  deriving DecidableEq, Repr

/-- The surface `SURF` (10_state.md R31, 20_memory.md R50): the cells written so far, each with its
cell index, addresses strictly rising (`Memory.wf` in Ops.lean). A cell that is not listed was
never written and holds no known value (R35; log 1, log 2). -/
abbrev Memory := List (Nat × Pixel)

/-- The registers the host can read (10_state.md R29), by their numbers. -/
inductive HostReg where
  /-- CR0, `W`. -/
  | cr0
  /-- CR1, `H`. -/
  | cr1
  /-- SR0, `PHASE`. -/
  | sr0
  /-- SR1, `FAULT_OP`. -/
  | sr1
  deriving DecidableEq, Repr

/-- One step of the host (40_command_cycle.md R90). -/
inductive HostStep where
  /-- Put a command word on offer; an earlier offer is replaced (70_reset_and_hazards.md R192). -/
  | offer (cmd : Command)
  /-- Withdraw the offer (R192). -/
  | withdraw
  /-- Write a surface cell, only while `PHASE = IDLE` (R191). -/
  | writeCell (addr : Nat) (v : Pixel)
  /-- `SurfRead(addr)` (20_memory.md R56). -/
  | readCell (addr : Nat)
  /-- Read a configuration or status register (10_state.md R29). -/
  | readReg (r : HostReg)
  /-- Reset (R185). -/
  | reset
  deriving DecidableEq, Repr

/-- Whose turn it is: the interleaving of the two agents as data (00_scope.md R9, R104; log 7). -/
inductive Turn where
  | unit
  | host (h : HostStep)
  deriving DecidableEq, Repr

/-- What a host read gave. -/
inductive Observation where
  /-- The value of a surface cell (20_memory.md R56). -/
  | cell (addr : Nat) (v : Pixel)
  /-- The value of a register, zero-extended to 16 bits (10_state.md R29; log 15). -/
  | reg (r : HostReg) (v : BitVec 16)
  deriving DecidableEq, Repr

/-- The whole state. The fields from `w` to `surf` are the spec's (10_state.md R20, complete); the
last four are the model's own, for the host and the free values (log 2, log 7). -/
structure State where
  /-- `W`, CR0 (R29): constant from reset on. -/
  w : BitVec 16
  /-- `H`, CR1 (R29): constant from reset on. -/
  h : BitVec 16
  /-- `OP`, the latched command code (R24). -/
  op : OpCode
  /-- `COLOR`, the latched colour (R24). -/
  color : Color
  /-- `A[0]` (R21). -/
  a0 : Word
  /-- `A[1]` (R21). -/
  a1 : Word
  /-- `A[2]` (R21). -/
  a2 : Word
  /-- `A[3]` (R21). -/
  a3 : Word
  /-- `CX`, 32-bit signed (R25). -/
  cx : Word
  /-- `CY`, 32-bit signed (R25). -/
  cy : Word
  /-- `ERR`: "a model uses an unbounded integer" (R25). -/
  err : Int
  /-- `PHASE`, SR0 (R26, R29). -/
  phase : Phase
  /-- `FAULT_OP`, SR1 (R29). -/
  faultOp : OpCode
  /-- `SURF` (R31). -/
  surf : Memory
  /-- The command word now on offer (40_command_cycle.md R91, R92). -/
  offer : Option Command
  /-- The turns still to come; when none is listed the unit moves (log 7). -/
  turns : List Turn
  /-- What the host has read, newest first (log 7). -/
  observed : List Observation
  /-- How many reset steps the host has taken: the argument of the free values (log 2, log 6). -/
  resetCount : Nat
  deriving DecidableEq, Repr

/-- The reasons the machine stops with a fault. -/
inductive Fault where
  /-- Raised by `unitStep` in `PHASE = FAULT`: no unit step is enabled until the host resets
  (60_exceptions.md R172). It carries `FAULT_OP`. Safe: the run ends where the unit sits still. -/
  | illegalCommand (op : OpCode)
  /-- Raised by `rectRun` when `(CX, CY)` is off the surface, where `SetPixel` is undefined
  (40_command_cycle.md R97). No state that keeps the invariant `Safety.StateOk` raises it. Safe. -/
  | setPixelOffSurface
  deriving DecidableEq, Repr

/-- The reasons the model has no step. -/
inductive Refusal where
  /-- Raised by `exec` for an instruction without a meaning yet. Safe. -/
  | notModelled (mnemonic : String)
  /-- Raised by `unitStep` in IDLE with nothing on offer: no step is enabled (40_command_cycle.md
  R94). Safe. -/
  | noCommandOffered
  /-- Raised by `hostStep` for a cell index outside `0 .. W*H-1` (20_memory.md R56, V4). Safe. -/
  | hostCellOutOfRange (addr : Nat)
  /-- Raised by `hostStep` for a surface write outside IDLE (70_reset_and_hazards.md R191, V5).
  Safe. -/
  | hostWriteNotIdle
  deriving DecidableEq, Repr

/-- The state after reset for the parameters `w` and `h` (10_state.md R35). The latches and the
walker are unspecified there; zero is a DESIGN CHOICE (log 5, unsafe; unobservable by R34). -/
def State.resetWith (w h : BitVec 16) : State where
  w := w
  h := h
  op := 0
  color := 0
  a0 := 0
  a1 := 0
  a2 := 0
  a3 := 0
  cx := 0
  cy := 0
  err := 0
  phase := .idle
  faultOp := 0
  surf := []
  offer := none
  turns := []
  observed := []
  resetCount := 0

/-- The state after reset at the surface size of Config (log 4). -/
def State.reset : State := State.resetWith Config.surfaceWidth Config.surfaceHeight

/-! Helper types of the two walkers. -/

/-- A logical line from `(x1, y1)` to `(x2, y2)` (43_line.md R130). -/
structure Segment where
  x1 : Int
  y1 : Int
  x2 : Int
  y2 : Int
  deriving DecidableEq, Repr

/-- The values `CX`, `CY`, `ERR` of a walk (43_line.md R134). -/
structure Walker where
  cx : Int
  cy : Int
  err : Int
  deriving DecidableEq, Repr

/-- The clipped edges `L`, `R`, `T`, `B` (42_rect.md R116). -/
structure Clip where
  left : Int
  right : Int
  top : Int
  bottom : Int
  deriving DecidableEq, Repr

end Sys2Proof.Machine
end

