-- ==== Sys2Proof/Machine/Operands.lean ====
section
/-! DEFINITION. The values the commands compute from their operands: the bounds test, the clipped
rectangle, the derived values of a line, the cell address and the cell value. All arithmetic is on
integers and exact (40_command_cycle.md R98, R99). -/

namespace Sys2Proof.Machine

/-- `InBounds(x, y)` (40_command_cycle.md R96) on a surface of `w` by `h` pixels. -/
def inBounds (w h : BitVec 16) (x y : Int) : Bool :=
  decide (0 ≤ x ∧ x < w.toNat ∧ 0 ≤ y ∧ y < h.toNat)

/-- The cell index of pixel `(x, y)`, row-major `y*W + x` (20_memory.md R53). -/
def pixelAddr (w : BitVec 16) (x y : Int) : Nat := (y * w.toNat + x).toNat

/-- The value the unit writes for a colour, `{0xFF, COLOR}` (20_memory.md R51). -/
def pixelValue (c : Color) : Pixel := (0xFF : BitVec 8) ++ c

/-- The low 24 bits of a cell, what the host's `getp` packs (20_memory.md R51). -/
def pixelRgb (v : Pixel) : Color := v.extractLsb' 0 24

/-- The number of cells of a surface, `W * H` (10_state.md R31). -/
def cellCount (w h : BitVec 16) : Nat := w.toNat * h.toNat

/-! RECT. -/

/-- The clipped edges of a rectangle (42_rect.md R116). -/
def clipRect (w h : BitVec 16) (x y width height : Int) : Clip where
  left := max x 0
  right := min (x + width) w.toNat
  top := max y 0
  bottom := min (y + height) h.toNat

/-- `NonEmpty` (42_rect.md R116). -/
def clipNonEmpty (c : Clip) : Bool := decide (c.left < c.right ∧ c.top < c.bottom)

/-- The clipped edges of the latched command (42_rect.md R116). -/
def clipOf (s : State) : Clip := clipRect s.w s.h s.a0.toInt s.a1.toInt s.a2.toInt s.a3.toInt

/-! LINE. -/

/-- The logical line of the latched command (43_line.md R130). -/
def segmentOf (s : State) : Segment := ⟨s.a0.toInt, s.a1.toInt, s.a2.toInt, s.a3.toInt⟩

/-- `DX = abs(x2 - x1)` (43_line.md R131). -/
def lineDX (g : Segment) : Int := (g.x2 - g.x1).natAbs

/-- `DY = -abs(y2 - y1)` (43_line.md R131). -/
def lineDY (g : Segment) : Int := -(g.y2 - g.y1).natAbs

/-- `SX` (43_line.md R131). -/
def lineSX (g : Segment) : Int := if g.x1 < g.x2 then 1 else -1

/-- `SY` (43_line.md R131). -/
def lineSY (g : Segment) : Int := if g.y1 < g.y2 then 1 else -1

/-- `N = max(DX, -DY)` (43_line.md R135). -/
def lineN (g : Segment) : Nat := max (g.x2 - g.x1).natAbs (g.y2 - g.y1).natAbs

/-- The walker before its first step (43_line.md R132). -/
def lineStart (g : Segment) : Walker := ⟨g.x1, g.y1, lineDX g + lineDY g⟩

/-- The first half of `Advance` on `ERR`: the step in x (43_line.md R134). -/
def advanceErrX (g : Segment) (p : Walker) : Int :=
  if lineDY g ≤ 2 * p.err then p.err + lineDY g else p.err

/-- The stepping rule `Advance` (43_line.md R134). Both tests see the `E2 = 2 * ERR` of before the
step; the second does not see the first update. -/
def advance (g : Segment) (p : Walker) : Walker where
  cx := if lineDY g ≤ 2 * p.err then p.cx + lineSX g else p.cx
  cy := if 2 * p.err ≤ lineDX g then p.cy + lineSY g else p.cy
  err := if 2 * p.err ≤ lineDX g then advanceErrX g p + lineDX g else advanceErrX g p

/-- The walker after `k` calls of `Advance` (43_line.md R135). -/
def walkAt (g : Segment) : Nat → Walker
  | 0 => lineStart g
  | k + 1 => advance g (walkAt g k)

end Sys2Proof.Machine
end

