-- ==== Sys2Proof/Machine/Ops.lean ====
section
/-! DEFINITION. The named operations on the surface and the registers, taking the one fault, and
the reset that alone leaves it. -/

namespace Sys2Proof.Machine

/-! The surface as data. -/

/-- The canonical form of a surface: cell indices strictly rising, so no index twice. An unlisted
cell holds no value, so no listed entry can equal it (log 1). -/
abbrev Memory.wf (m : Memory) : Prop := m.Pairwise fun p q => p.1 < q.1

/-- The value written last to a cell, or none where nothing has been written. -/
def Memory.read? : Memory → Nat → Option Pixel
  | [], _ => none
  | (b, u) :: rest, addr => if addr = b then some u else Memory.read? rest addr

/-- Write one cell, keeping the indices rising. -/
def Memory.write : Memory → Nat → Pixel → Memory
  | [], addr, v => [(addr, v)]
  | (b, u) :: rest, addr, v =>
      if addr < b then (addr, v) :: (b, u) :: rest
      else if addr = b then (addr, v) :: rest
      else (b, u) :: Memory.write rest addr v

/-- The surface listed as bytes in the spec's byte order, most significant byte of a cell first
(20_memory.md R55; for listings only, log 1). -/
def Memory.toBytes (m : Memory) : List Host.Cell :=
  m.flatMap fun p => (List.range 4).map fun k => (4 * p.1 + k, p.2.extractLsb' (24 - 8 * k) 8)

/-! Access to the surface. -/

/-- `SurfRead(addr)` (20_memory.md R56): a cell nothing has written reads as the free value
`SURF_INIT` (R187; log 2). -/
def surfRead (s : State) (addr : Nat) : Pixel :=
  (s.surf.read? addr).getD (Config.surfInit s.resetCount addr)

/-- `SurfWrite(addr, v)` (20_memory.md R52): the one cell, and nothing else. -/
def surfWrite (addr : Nat) (v : Pixel) (s : State) : State :=
  { s with surf := s.surf.write addr v }

/-- `InBounds(x, y)` at a state (40_command_cycle.md R96). -/
def onSurface (s : State) (x y : Int) : Bool := inBounds s.w s.h x y

/-- `SetPixel(x, y, c)` (40_command_cycle.md R97). It is defined only on the surface: a caller
tests `onSurface` first. -/
def setPixel (x y : Int) (c : Color) (s : State) : State :=
  surfWrite (pixelAddr s.w x y) (pixelValue c) s

/-- The per-point clipping that POINT and LINE share: `if InBounds(x, y) then SetPixel(x, y, COLOR)`
(41_point.md R110, 43_line.md R133). -/
def plot (x y : Int) (s : State) : State :=
  if onSurface s x y then setPixel x y s.color s else s

/-! Register writes. -/

/-- The latches of the accept step (40_command_cycle.md R92). -/
def latch (op : OpCode) (color : Color) (a0 a1 a2 a3 : Word) (s : State) : State :=
  { s with op := op, color := color, a0 := a0, a1 := a1, a2 := a2, a3 := a3 }

/-- `PHASE <- p` (10_state.md R26). -/
def setPhase (p : Phase) (s : State) : State := { s with phase := p }

/-- `(CX, CY) <- (x, y)`, each kept in 32 bits (10_state.md R25; log 12). -/
def setPosition (x y : Int) (s : State) : State :=
  { s with cx := BitVec.ofInt 32 x, cy := BitVec.ofInt 32 y }

/-- `ERR <- e` (10_state.md R25). -/
def setErr (e : Int) (s : State) : State := { s with err := e }

/-- The walker registers read as integers. -/
def walkerOf (s : State) : Walker := ⟨s.cx.toInt, s.cy.toInt, s.err⟩

/-- The walker registers written together. -/
def setWalker (p : Walker) (s : State) : State := setErr p.err (setPosition p.cx p.cy s)

/-- The offer is consumed by the accept step (R92) or withdrawn (70_reset_and_hazards.md R192). -/
def clearOffer (s : State) : State := { s with offer := none }

/-- A command word is put on offer (R92, R192). -/
def setOffer (cmd : Command) (s : State) : State := { s with offer := some cmd }

/-- The turns that remain (log 7). -/
def setTurns (turns : List Turn) (s : State) : State := { s with turns := turns }

/-- The host notes what it has read (log 7). -/
def observe (o : Observation) (s : State) : State := { s with observed := o :: s.observed }

/-! The fault and what leaves it. -/

/-- `raise IllegalCommand(op)` (60_exceptions.md R166): `FAULT_OP <- op`, `PHASE <- FAULT`; nothing
is drawn, nothing is saved and no handler runs (R172). -/
def raiseIllegalCommand (op : OpCode) (s : State) : State :=
  { s with faultOp := op, phase := .fault }

/-- Reset (70_reset_and_hazards.md R185), the only way out of FAULT (60_exceptions.md R173) and out
of a running command (R186): `PHASE <- IDLE`, `FAULT_OP <- 0`; `W`, `H` and the surface stay; the
latches and the walker take unspecified values (log 6). -/
def resetUnit (s : State) : State :=
  let n := s.resetCount + 1
  { s with
    phase := .idle
    faultOp := 0
    op := Config.resetOp n
    color := Config.resetColor n
    a0 := Config.resetOperand n 0
    a1 := Config.resetOperand n 1
    a2 := Config.resetOperand n 2
    a3 := Config.resetOperand n 3
    cx := Config.resetCx n
    cy := Config.resetCy n
    err := Config.resetErr n
    resetCount := n }

end Sys2Proof.Machine
end

