-- ==== Sys2Proof/Machine/Flags.lean ====
section
/-! DEFINITION. The unit has no condition codes or flags (10_state.md R28). What stands in their
place is the status a host can read: the numbered registers of 10_state.md R29 and the cause code
of 60_exceptions.md R167. -/

namespace Sys2Proof.Machine

/-- The 2-bit value of `PHASE` (10_state.md R26). -/
def phaseCode : Phase → BitVec 2
  | .idle => 0
  | .rect => 1
  | .line => 2
  | .fault => 3

/-- The value the host reads from a register (10_state.md R29), zero-extended to 16 bits (log 15). -/
def readHostReg (r : HostReg) (s : State) : BitVec 16 :=
  match r with
  | .cr0 => s.w
  | .cr1 => s.h
  | .sr0 => (phaseCode s.phase).setWidth 16
  | .sr1 => s.faultOp.setWidth 16

/-- The cause code (60_exceptions.md R167): there is no cause register, `PHASE = FAULT` is the
cause. -/
def causeCode (s : State) : Nat := if s.phase = .fault then 1 else 0

end Sys2Proof.Machine
end

