-- ==== Sys2Proof/Machine/Line.lean ====
section
/-! DEFINITION. LINE, the Bresenham walker with per-point clipping (43_line.md). -/

namespace Sys2Proof.Machine

/-- The start of a LINE after the latches are written (43_line.md R132). -/
def startLine (s : State) : State := setPhase .line (setWalker (lineStart (segmentOf s)) s)

/-- LINE, accept part (43_line.md R132). -/
def execLine (color : Color) (a0 a1 a2 a3 : Word) (s : State) :
    Host.Outcome State Fault Refusal :=
  .next (startLine (latch opLine color a0 a1 a2 a3 s))

/-- Where a LINE goes after visiting `(CX, CY)`: to its end at the end point, else by `Advance`
(43_line.md R133). -/
def lineAdvance (s : State) : State :=
  if s.cx = s.a2 ∧ s.cy = s.a3 then setPhase .idle s
  else setWalker (advance (segmentOf s) (walkerOf s)) s

/-- LINE, run step (43_line.md R133): visit `(CX, CY)`, then move on. -/
def lineRun (s : State) : Host.Outcome State Fault Refusal :=
  .next (lineAdvance (plot s.cx.toInt s.cy.toInt s))

end Sys2Proof.Machine
end

