-- ==== Sys2Proof/Machine/Point.lean ====
section
/-! DEFINITION. POINT, the point plotter (41_point.md). -/

namespace Sys2Proof.Machine

/-- POINT, executed inside the accept step (41_point.md R110): the latches, then the pixel if it is
on the surface; PHASE stays IDLE. -/
def execPoint (color : Color) (a0 a1 a2 a3 : Word) (s : State) :
    Host.Outcome State Fault Refusal :=
  .next (setPhase .idle (plot a0.toInt a1.toInt (latch opPoint color a0 a1 a2 a3 s)))

end Sys2Proof.Machine
end

