-- ==== Sys2Proof/Machine/Rect.lean ====
section
/-! DEFINITION. RECT, the filled rectangle with intersection clipping (42_rect.md). -/

namespace Sys2Proof.Machine

/-- The start of a RECT after the latches are written (42_rect.md R117). -/
def startRect (s : State) : State :=
  if clipNonEmpty (clipOf s) then setPhase .rect (setPosition (clipOf s).left (clipOf s).top s)
  else setPhase .idle s

/-- RECT, accept part (42_rect.md R117). -/
def execRect (color : Color) (a0 a1 a2 a3 : Word) (s : State) :
    Host.Outcome State Fault Refusal :=
  .next (startRect (latch opRect color a0 a1 a2 a3 s))

/-- Where a RECT goes after writing `(CX, CY)`: along the row, to the next row, or to its end
(42_rect.md R118). -/
def rectAdvance (s : State) : State :=
  if s.cx.toInt + 1 < (clipOf s).right then setPosition (s.cx.toInt + 1) s.cy.toInt s
  else if s.cy.toInt + 1 < (clipOf s).bottom then setPosition (clipOf s).left (s.cy.toInt + 1) s
  else setPhase .idle s

/-- RECT, run step (42_rect.md R118). `SetPixel` is undefined off the surface (R97): by R119 no
running RECT gets there, and in a state no run reaches the step faults by name (log 10). -/
def rectRun (s : State) : Host.Outcome State Fault Refusal :=
  if onSurface s s.cx.toInt s.cy.toInt then
    .next (rectAdvance (setPixel s.cx.toInt s.cy.toInt s.color s))
  else .fault .setPixelOffSurface

end Sys2Proof.Machine
end

