-- ==== Sys2Proof/Machine/Dispatch.lean ====
section
/-! DEFINITION. The arms of the accept step's case distinction for the legal codes
(40_command_cycle.md R92, R93). The accept step tests PHASE = IDLE before it comes here (log 13). -/

namespace Sys2Proof.Machine

def exec (i : Instr) (s : State) : Host.Outcome State Fault Refusal :=
  match i with
  | .point color a0 a1 a2 a3 => Sys2Proof.Machine.execPoint color a0 a1 a2 a3 s
  | .line color a0 a1 a2 a3 => Sys2Proof.Machine.execLine color a0 a1 a2 a3 s
  | .rect color a0 a1 a2 a3 => Sys2Proof.Machine.execRect color a0 a1 a2 a3 s

end Sys2Proof.Machine
end

