-- ==== Sys2Proof/Machine/Unit.lean ====
section
/-! DEFINITION. The unit's own steps: the accept step, the run steps, and what happens where no
step is enabled (40_command_cycle.md R91 to R95). -/

namespace Sys2Proof.Machine

/-- The accept step's answer to a word that is no command (40_command_cycle.md R92,
60_exceptions.md R166): the latches are written from the word, then IllegalCommand is raised. -/
def acceptIllegal (op : OpCode) (cmd : Command) (s : State) : State :=
  raiseIllegalCommand op
    (latch (cmdOp cmd) (cmdColor cmd) (cmdA0 cmd) (cmdA1 cmd) (cmdA2 cmd) (cmdA3 cmd) s)

/-- The accept step on the offered word (R92); the offer is consumed. A 160-bit word cannot have a
wrong length, and the decoder never says so of one. -/
def acceptStep (cmd : Command) (s : State) : Host.Outcome State Fault Refusal :=
  match decode cmd with
  | .ok i => exec i (clearOffer s)
  | .error (.illegalOp op) => .next (acceptIllegal op cmd (clearOffer s))
  | .error (.notTwentyBytes _) => .next (acceptIllegal (cmdOp cmd) cmd (clearOffer s))

/-- Whether the unit has an enabled step (R94). -/
def unitEnabled (s : State) : Bool :=
  match s.phase with
  | .idle => s.offer.isSome
  | .rect => true
  | .line => true
  | .fault => false

/-- The unit's step (R92, R94). Where none is enabled the machine stops by name (log 9). -/
def unitStep (s : State) : Host.Outcome State Fault Refusal :=
  match s.phase with
  | .idle =>
    match s.offer with
    | some cmd => acceptStep cmd s
    | none => .refused .noCommandOffered
  | .rect => rectRun s
  | .line => lineRun s
  | .fault => .fault (.illegalCommand s.faultOp)

/-- A turn of the unit: its step where one is enabled; where none is, the turn passes and the unit
sits still (60_exceptions.md R172, R177; log 9). -/
def unitTurn (s : State) : Host.Outcome State Fault Refusal :=
  if unitEnabled s then unitStep s else .next s

end Sys2Proof.Machine
end

