-- ==== Sys2Proof/Machine/HostAgent.lean ====
section
/-! DEFINITION. The host's steps (40_command_cycle.md R90, 70_reset_and_hazards.md R185 to R192).
The file is named HostAgent so that it is not taken for the pipeline's Host folder. -/

namespace Sys2Proof.Machine

/-- A read of a surface cell: any cell in range, at any time, with no effect on the unit or on the
surface (20_memory.md R56). Out of range there is no step (V4; log 11). -/
def hostReadCell (addr : Nat) (s : State) : Host.Outcome State Fault Refusal :=
  if addr < cellCount s.w s.h then .next (observe (.cell addr (surfRead s addr)) s)
  else .refused (.hostCellOutOfRange addr)

/-- A write of a surface cell, only in IDLE (70_reset_and_hazards.md R191; log 11). -/
def hostWriteCell (addr : Nat) (v : Pixel) (s : State) : Host.Outcome State Fault Refusal :=
  if s.phase = .idle then
    if addr < cellCount s.w s.h then .next (surfWrite addr v s)
    else .refused (.hostCellOutOfRange addr)
  else .refused .hostWriteNotIdle

/-- A read of a configuration or status register (10_state.md R29). -/
def hostReadReg (r : HostReg) (s : State) : Host.Outcome State Fault Refusal :=
  .next (observe (.reg r (readHostReg r s)) s)

/-- One step of the host. Offering and withdrawing are possible in every phase: an offer that
cannot be taken yet just stands (40_command_cycle.md R91, R192). Reset is enabled in every state
(R185) and leaves the host's own offer as it is (log 14). -/
def hostStep (h : HostStep) (s : State) : Host.Outcome State Fault Refusal :=
  match h with
  | .offer cmd => .next (setOffer cmd s)
  | .withdraw => .next (clearOffer s)
  | .writeCell addr v => hostWriteCell addr v s
  | .readCell addr => hostReadCell addr s
  | .readReg r => hostReadReg r s
  | .reset => .next (resetUnit s)

end Sys2Proof.Machine
end

