-- ==== Sys2Proof/Machine/Step.lean ====
section
/-! DEFINITION. One step of the whole: the agent whose turn it is moves (00_scope.md R9,
40_command_cycle.md R90; log 7). -/

namespace Sys2Proof.Machine

/-- The listed turn is taken and removed; when no turn is listed the unit moves by itself (R94: a
run step needs nothing from the host). -/
def step (s : State) : Host.Outcome State Fault Refusal :=
  match s.turns with
  | [] => unitStep s
  | .unit :: rest => unitTurn (setTurns rest s)
  | .host h :: rest => hostStep h (setTurns rest s)

/-- The state in which the very next step accepts the given word of the opcode table: the unit is
IDLE, the word is on offer, and no host turn comes first (log 8). -/
def State.withFetchWord (s : State) (nbits w : Nat) : State :=
  { s with phase := .idle, offer := some (tableWord nbits w), turns := [] }

end Sys2Proof.Machine
end

