-- ==== Sys2Proof/Machine/Binding.lean ====
section
/-! DEFINITION. What the g1 interpreter, as the host, does at the unit's ports for its draw
instructions and for `getp` (44_g1_binding.md R150 to R157). The interpreter's own state (its
current colour, its Memory, its program counter) is out of scope (00_scope.md R4), so what it holds
is an argument here (log 19); so is the host's open parameter `COLOR_NARROW` (00_scope.md R5). -/

namespace Sys2Proof.Machine

/-- The default that R152 gives `COLOR_NARROW`: the low 8 bits. Only the spec's own worked values
use it; nothing else in the model takes it for the host's choice. -/
def colorNarrowDefault (a : Word) : Byte := a.extractLsb' 0 8

/-- The current colour that the interpreter's `color a0, a1, a2` sets, as the `COLOR` field of the
commands that follow: `CR` from `a0`, `CG` from `a1`, `CB` from `a2` (R150, R152). How an argument
becomes a channel is the open parameter `COLOR_NARROW`, the argument `narrow`. -/
def hostColor (narrow : Word → Byte) (a0 a1 a2 : Word) : Color :=
  narrow a2 ++ narrow a1 ++ narrow a0

/-- The interpreter's `point a0, a1` (R153). The fields POINT does not use are sent as zero, as
30_encoding.md R80 lists them (log 19). -/
def hostPoint (color : Color) (a0 a1 : Word) : HostStep := .offer (encode (.point color a0 a1 0 0))

/-- The interpreter's `line a0, a1, a2, a3` (R153). -/
def hostLine (color : Color) (a0 a1 a2 a3 : Word) : HostStep :=
  .offer (encode (.line color a0 a1 a2 a3))

/-- The interpreter's `rect a0, a1, a2, a3` (R153). -/
def hostRect (color : Color) (a0 a1 a2 a3 : Word) : HostStep :=
  .offer (encode (.rect color a0 a1 a2 a3))

/-- The surface read of `getp a0, a1, a2`: cell `a2*W + a1`; off the surface there is none (R157,
V4). -/
def hostGetp (s : State) (a1 a2 : Word) : Option HostStep :=
  if onSurface s a1.toInt a2.toInt then some (.readCell (pixelAddr s.w a1.toInt a2.toInt))
  else none

/-- The value `getp` stores for a cell: its low 24 bits (R157). -/
def getpValue (v : Pixel) : Word := (pixelRgb v).setWidth 32

end Sys2Proof.Machine
end

