-- ==== Sys2Proof/Machine/Command.lean ====
section
/-! DEFINITION. The command-level meaning (40_command_cycle.md R103): which points a command draws,
and the surface after drawing them. It is the spec's second description of the commands, written
beside the steps; that the two agree is stated, not assumed. -/

namespace Sys2Proof.Machine

/-- The points of a clipped rectangle, by row and then by column (42_rect.md R119). -/
def rectPoints (c : Clip) : List (Int × Int) :=
  if clipNonEmpty c then
    (List.range (c.bottom - c.top).toNat).flatMap fun j : Nat =>
      (List.range (c.right - c.left).toNat).map fun i : Nat => (c.left + i, c.top + j)
  else []

/-- The `k`-th visited point of a line, `P_k` (43_line.md R135). -/
def visitAt (g : Segment) (k : Nat) : Int × Int := ((walkAt g k).cx, (walkAt g k).cy)

/-- The visited list `P_0, ..., P_N` (43_line.md R135). -/
def lineVisits (g : Segment) : List (Int × Int) := (List.range (lineN g + 1)).map (visitAt g)

/-- The closed form of `P_k` (43_line.md R136); `/` is the floor of the quotient, the divisor being
positive. -/
def closedVisit (g : Segment) (k : Nat) : Int × Int :=
  let d := lineDX g
  let a := -lineDY g
  if d < a then (g.x1 + lineSX g * ((2 * d * k + a) / (2 * a)), g.y1 + lineSY g * k)
  else if d = 0 then (g.x1, g.y1)
  else (g.x1 + lineSX g * k, g.y1 + lineSY g * ((2 * a * k + d) / (2 * d)))

/-- The clipped edges of a RECT's operands (42_rect.md R116). -/
def clipOfOperands (w h : BitVec 16) (a0 a1 a2 a3 : Word) : Clip :=
  clipRect w h a0.toInt a1.toInt a2.toInt a3.toInt

/-- The logical line of a LINE's operands (43_line.md R130). -/
def segmentOfOperands (a0 a1 a2 a3 : Word) : Segment := ⟨a0.toInt, a1.toInt, a2.toInt, a3.toInt⟩

/-- `Draws(cmd)` (40_command_cycle.md R103) for a legal command. -/
def draws (w h : BitVec 16) : Instr → List (Int × Int)
  | .point _ a0 a1 _ _ =>
      if inBounds w h a0.toInt a1.toInt then [(a0.toInt, a1.toInt)] else []
  | .rect _ a0 a1 a2 a3 => rectPoints (clipOfOperands w h a0 a1 a2 a3)
  | .line _ a0 a1 a2 a3 =>
      (lineVisits (segmentOfOperands a0 a1 a2 a3)).filter fun p => inBounds w h p.1 p.2

/-- The number of run steps of a command (70_reset_and_hazards.md R196). -/
def runStepCount (w h : BitVec 16) : Instr → Nat
  | .point .. => 0
  | .rect _ a0 a1 a2 a3 =>
      let c := clipOfOperands w h a0 a1 a2 a3
      if clipNonEmpty c then ((c.right - c.left) * (c.bottom - c.top)).toNat else 0
  | .line _ a0 a1 a2 a3 => lineN (segmentOfOperands a0 a1 a2 a3) + 1

/-- The colour a command carries (30_encoding.md R70). -/
def colorOf : Instr → Color
  | .point color .. => color
  | .line color .. => color
  | .rect color .. => color

/-- The surface with the given points drawn, in order, in one colour (40_command_cycle.md R103). -/
def paint (w : BitVec 16) (c : Color) (points : List (Int × Int)) (m : Memory) : Memory :=
  points.foldl (fun m p => m.write (pixelAddr w p.1 p.2) (pixelValue c)) m

end Sys2Proof.Machine
end

