-- ==== Sys2Proof/Safety.lean ====
section
/-! DEFINITION. The terms in which claims about the machine are made: whose turn it is, the
invariant, a state without a fault, and what of a state a host can tell. -/

namespace Sys2Proof.Safety

open Sys2Proof.Machine

/-- It is the unit's turn: none is listed, or the first listed turn is the unit's. -/
def unitToMove (s : State) : Prop := s.turns = [] ∨ ∃ rest, s.turns = .unit :: rest

/-- The state with its first listed turn used up. -/
def afterTurn (s : State) : State := setTurns s.turns.tail s

/-- `n` steps of the machine, stopping at the first fault or refusal. -/
def runFor : Nat → State → Host.Outcome State Fault Refusal
  | 0, s => .next s
  | n + 1, s =>
    match step s with
    | .next t => runFor n t
    | .fault r => .fault r
    | .refused r => .refused r

/-- A good state: the unit has not faulted (60_exceptions.md R173). -/
def noFault (s : State) : Prop := s.phase ≠ .fault

/-- The invariant on entry to a run step of RECT (42_rect.md R118). -/
def RectOk (s : State) : Prop :=
  s.op = opRect ∧ clipNonEmpty (clipOf s) = true ∧
    (clipOf s).left ≤ s.cx.toInt ∧ s.cx.toInt < (clipOf s).right ∧
    (clipOf s).top ≤ s.cy.toInt ∧ s.cy.toInt < (clipOf s).bottom

/-- The invariant on entry to a run step of LINE: the walker is on the walk of the latched line,
after some number of steps that is at most `N` (43_line.md R135). -/
def LineOk (s : State) : Prop :=
  s.op = opLine ∧ ∃ k, k ≤ lineN (segmentOf s) ∧ walkerOf s = walkAt (segmentOf s) k

/-- In FAULT the recorded code is the latched one and is no command's (60_exceptions.md R166). -/
def FaultOk (s : State) : Prop :=
  s.faultOp = s.op ∧ s.op ≠ opPoint ∧ s.op ≠ opLine ∧ s.op ≠ opRect

/-- The invariant of the machine. -/
structure StateOk (s : State) : Prop where
  /-- The surface is in its canonical form. -/
  surfWf : Memory.wf s.surf
  /-- Every written cell exists: its index is below `W * H` (20_memory.md R50). -/
  surfInRange : ∀ p ∈ s.surf, p.1 < cellCount s.w s.h
  rectOk : s.phase = .rect → RectOk s
  lineOk : s.phase = .line → LineOk s
  faultOk : s.phase = .fault → FaultOk s
  /-- `FAULT_OP = 0` while there has been no fault since reset (60_exceptions.md R167). -/
  noFaultOp : s.phase ≠ .fault → s.faultOp = 0

/-- The state with the registers a host cannot read erased: the latches and the walker
(10_state.md R23, R25, R33). -/
def visible (s : State) : State :=
  { s with op := 0, color := 0, a0 := 0, a1 := 0, a2 := 0, a3 := 0, cx := 0, cy := 0, err := 0 }

/-- An outcome with those registers erased. -/
def visibleOutcome : Host.Outcome State Fault Refusal → Host.Outcome State Fault Refusal
  | .next s => .next (visible s)
  | .fault r => .fault r
  | .refused r => .refused r

end Sys2Proof.Safety
end

