-- ==== Sys2Proof/Certificates/Slice0/Obligations.lean ====
section
/-! DEFINITION. The statements for the provers, each with the rule of spec/ it formalises. A record
update `t = { s with … }` in a statement is its frame: every field not named there is unchanged. -/

open Sys2Proof Sys2Proof.Machine Sys2Proof.Safety

/-! ## Encoding -/

/-- 30_encoding.md, the format, the codes and the operand fields: no bit of a command's word is
dropped, in either direction. -/
def Obligations.EncodeAndDecodeAgree : Prop :=
  (∀ i : Instr, decode (encode i) = .ok i) ∧
  (∀ (cmd : Command) (i : Instr), decode cmd = .ok i → encode i = cmd)

/-- R75: a word is the named command exactly when `cmd & mask = match`; decoding looks at `OP`
only. -/
def Obligations.DecodeIsMaskAndMatch : Prop :=
  ∀ cmd : Command,
    (cmd &&& 0xFF00000000000000000000000000000000000000#160 =
        0x0C00000000000000000000000000000000000000#160 ↔
      ∃ c a0 a1 a2 a3, decode cmd = .ok (.point c a0 a1 a2 a3)) ∧
    (cmd &&& 0xFF00000000000000000000000000000000000000#160 =
        0x0D00000000000000000000000000000000000000#160 ↔
      ∃ c a0 a1 a2 a3, decode cmd = .ok (.line c a0 a1 a2 a3)) ∧
    (cmd &&& 0xFF00000000000000000000000000000000000000#160 =
        0x0E00000000000000000000000000000000000000#160 ↔
      ∃ c a0 a1 a2 a3, decode cmd = .ok (.rect c a0 a1 a2 a3))

/-- R76, first sentence: the codes 0x00 to 0x0B and 0x0F to 0xFF are illegal, and no others. -/
def Obligations.EveryOtherCodeIsIllegal : Prop :=
  ∀ cmd : Command,
    ((cmd.extractLsb' 152 8).toNat ≤ 0x0B ∨ 0x0F ≤ (cmd.extractLsb' 152 8).toNat) ↔
      decode cmd = .error (.illegalOp (cmd.extractLsb' 152 8))

/-- The words of the spec's own vectors V-P1, V-L2, V-R3 and V-X2 (95_test_vectors.md). -/
def Obligations.SpecWordsDecodeToTheirCommands : Prop :=
  decode 0x0C0000FF00000003000000040000000000000000 = .ok (.point 0x0000FF 3 4 0 0) ∧
  decode 0x0D00FF00FFFFFFFEFFFFFFFF0000000700000002 =
    .ok (.line 0x00FF00 (BitVec.ofInt 32 (-2)) (BitVec.ofInt 32 (-1)) 7 2) ∧
  decode 0x0E090909FFFFFFFDFFFFFFFE0000000500000004 =
    .ok (.rect 0x090909 (BitVec.ofInt 32 (-3)) (BitVec.ofInt 32 (-2)) 5 4) ∧
  decode 0x1103020100000001000000010000000100000001 = .error (.illegalOp 0x11)

/-- 30_encoding.md, the canonical byte form: 20 bytes, most significant first, and back. The third
clause, that a list of another length is refused as `notTwentyBytes` with its length, is the model's
choice (log 18). -/
def Obligations.ByteFormRoundTrip : Prop :=
  (∀ cmd : Command,
    (bytesOfCommand cmd).length = 20 ∧
    (∀ k (hk : k < (bytesOfCommand cmd).length),
      (bytesOfCommand cmd)[k] = cmd.extractLsb' (152 - 8 * k) 8) ∧
    commandOfBytes (bytesOfCommand cmd) = .ok cmd) ∧
  (∀ bytes : List Byte, bytes.length = 20 →
    ∃ cmd, commandOfBytes bytes = .ok cmd ∧ bytesOfCommand cmd = bytes) ∧
  (∀ bytes : List Byte, bytes.length ≠ 20 →
    commandOfBytes bytes = .error (.notTwentyBytes bytes.length))

/-- R80: the ranges of the textual form of a command, and what it assembles to. -/
def Obligations.ListingAssemblesToItsFields : Prop :=
  (∀ (x y : Int) (r g b : Nat),
    ((Listing.point x y r g b).wellFormed = true ↔
      (-2147483648 ≤ x ∧ x ≤ 2147483647) ∧ (-2147483648 ≤ y ∧ y ≤ 2147483647) ∧
      r ≤ 255 ∧ g ≤ 255 ∧ b ≤ 255) ∧
    ((Listing.point x y r g b).wellFormed = true → ∃ cmd, encode (Listing.point x y r g b).assemble = cmd ∧
      cmd.extractLsb' 152 8 = 0x0C#8 ∧
      (cmd.extractLsb' 128 8).toNat = r ∧ (cmd.extractLsb' 136 8).toNat = g ∧
      (cmd.extractLsb' 144 8).toNat = b ∧
      (cmd.extractLsb' 96 32).toInt = x ∧ (cmd.extractLsb' 64 32).toInt = y ∧
      cmd.extractLsb' 32 32 = 0#32 ∧ cmd.extractLsb' 0 32 = 0#32)) ∧
  (∀ (x1 y1 x2 y2 : Int) (r g b : Nat),
    ((Listing.line x1 y1 x2 y2 r g b).wellFormed = true ↔
      (-2147483648 ≤ x1 ∧ x1 ≤ 2147483647) ∧ (-2147483648 ≤ y1 ∧ y1 ≤ 2147483647) ∧
      (-2147483648 ≤ x2 ∧ x2 ≤ 2147483647) ∧ (-2147483648 ≤ y2 ∧ y2 ≤ 2147483647) ∧
      r ≤ 255 ∧ g ≤ 255 ∧ b ≤ 255) ∧
    ((Listing.line x1 y1 x2 y2 r g b).wellFormed = true → ∃ cmd, encode (Listing.line x1 y1 x2 y2 r g b).assemble = cmd ∧
      cmd.extractLsb' 152 8 = 0x0D#8 ∧
      (cmd.extractLsb' 128 8).toNat = r ∧ (cmd.extractLsb' 136 8).toNat = g ∧
      (cmd.extractLsb' 144 8).toNat = b ∧
      (cmd.extractLsb' 96 32).toInt = x1 ∧ (cmd.extractLsb' 64 32).toInt = y1 ∧
      (cmd.extractLsb' 32 32).toInt = x2 ∧ (cmd.extractLsb' 0 32).toInt = y2)) ∧
  (∀ (x y width height : Int) (r g b : Nat),
    ((Listing.rect x y width height r g b).wellFormed = true ↔
      (-2147483648 ≤ x ∧ x ≤ 2147483647) ∧ (-2147483648 ≤ y ∧ y ≤ 2147483647) ∧
      (-2147483648 ≤ width ∧ width ≤ 2147483647) ∧
      (-2147483648 ≤ height ∧ height ≤ 2147483647) ∧
      r ≤ 255 ∧ g ≤ 255 ∧ b ≤ 255) ∧
    ((Listing.rect x y width height r g b).wellFormed = true → ∃ cmd, encode (Listing.rect x y width height r g b).assemble = cmd ∧
      cmd.extractLsb' 152 8 = 0x0E#8 ∧
      (cmd.extractLsb' 128 8).toNat = r ∧ (cmd.extractLsb' 136 8).toNat = g ∧
      (cmd.extractLsb' 144 8).toNat = b ∧
      (cmd.extractLsb' 96 32).toInt = x ∧ (cmd.extractLsb' 64 32).toInt = y ∧
      (cmd.extractLsb' 32 32).toInt = width ∧ (cmd.extractLsb' 0 32).toInt = height))

/-! ## The command cycle -/

/-- The accept step on a legal word is the command's meaning with the offer consumed
(40_command_cycle.md section 2), with or without a listed turn. The last clause, on the model's own
devices `withFetchWord` and `decodeTableWord` (PHASE set to IDLE, no turn listed, the word padded
with zeros), is the model's choice (log 8, log 18). -/
def Obligations.StepRunsTheOfferedCommand : Prop :=
  (∀ (s : State) (cmd : Command) (i : Instr),
    s.phase = .idle → s.offer = some cmd → decode cmd = .ok i →
    (s.turns = [] → step s = exec i { s with offer := none }) ∧
    (∀ rest, s.turns = .unit :: rest →
      step s = exec i { s with offer := none, turns := rest })) ∧
  (∀ (s : State) (nbits w : Nat) (i : Instr), decodeTableWord nbits w = some i →
    step (s.withFetchWord nbits w) =
      exec i { s with phase := .idle, offer := none, turns := [] })

/-- R166: IllegalCommand, when it is raised and all it does. -/
def Obligations.IllegalCodeRaisesIllegalCommand : Prop :=
  ∀ (s : State) (cmd : Command), unitToMove s → s.phase = .idle → s.offer = some cmd →
    (cmd.extractLsb' 152 8 ≠ 0x0C#8 ∧ cmd.extractLsb' 152 8 ≠ 0x0D#8 ∧
        cmd.extractLsb' 152 8 ≠ 0x0E#8 →
      ∃ t, step s = .next t ∧ causeCode t = 1 ∧
        t = { s with
          turns := s.turns.tail
          offer := none
          op := cmd.extractLsb' 152 8
          color := cmd.extractLsb' 128 24
          a0 := cmd.extractLsb' 96 32
          a1 := cmd.extractLsb' 64 32
          a2 := cmd.extractLsb' 32 32
          a3 := cmd.extractLsb' 0 32
          faultOp := cmd.extractLsb' 152 8
          phase := .fault }) ∧
    (cmd.extractLsb' 152 8 = 0x0C#8 ∨ cmd.extractLsb' 152 8 = 0x0D#8 ∨
        cmd.extractLsb' 152 8 = 0x0E#8 →
      ∃ t, step s = .next t ∧ t.phase ≠ .fault ∧ t.faultOp = s.faultOp)

/-- R91: outside IDLE an offered command is not taken, stays on offer, and has no effect on what
the unit does. -/
def Obligations.BusyUnitLeavesTheOfferAlone : Prop :=
  ∀ (s t : State) (o : Option Command),
    unitToMove s → s.phase ≠ .idle → step s = .next t →
    t.offer = s.offer ∧ t.op = s.op ∧ t.color = s.color ∧
    t.a0 = s.a0 ∧ t.a1 = s.a1 ∧ t.a2 = s.a2 ∧ t.a3 = s.a3 ∧
    step { s with offer := o } = .next { t with offer := o }

/-- Where no unit step is enabled (40_command_cycle.md section 2). The two named stops and the
passing of a listed turn are the model's choice (log 9). -/
def Obligations.DisabledUnitTakesNoStep : Prop :=
  (∀ s : State, s.turns = [] → s.phase = .idle → s.offer = none →
    step s = .refused .noCommandOffered) ∧
  (∀ s : State, s.turns = [] → s.phase = .fault →
    step s = .fault (.illegalCommand s.faultOp)) ∧
  (∀ (s : State) (rest : List Turn), s.turns = .unit :: rest →
    (s.phase = .idle ∧ s.offer = none) ∨ s.phase = .fault →
    step s = .next { s with turns := rest })

/-- R165: for every legal code and every operand value the unit raises nothing, in the accept step
and, from a state that keeps the invariant, in every later step: the only fault of the machine is
the one FAULT itself stands for. -/
def Obligations.LegalCommandsRaiseNothing : Prop :=
  (∀ (i : Instr) (s : State), s.phase = .idle →
    ∃ t, exec i s = .next t ∧ t.phase ≠ .fault ∧ t.faultOp = s.faultOp) ∧
  (∀ (s : State) (f : Fault), StateOk s → step s = .fault f →
    s.phase = .fault ∧ f = .illegalCommand s.faultOp)

/-- The whole machine: only the accept step of an illegal code enters FAULT (60_exceptions.md
section 1). -/
def Obligations.OnlyAnIllegalCodeEntersFault : Prop :=
  ∀ s t : State, step s = .next t → s.phase ≠ .fault → t.phase = .fault →
    unitToMove s ∧ s.phase = .idle ∧ ∃ cmd, s.offer = some cmd ∧
      cmd.extractLsb' 152 8 ≠ 0x0C#8 ∧ cmd.extractLsb' 152 8 ≠ 0x0D#8 ∧
      cmd.extractLsb' 152 8 ≠ 0x0E#8

/-- The whole machine: only an accept step and a reset write the latches, and an accept step writes
all of them from the word (10_state.md section 2). -/
def Obligations.LatchesChangeOnlyInAcceptAndReset : Prop :=
  ∀ s t : State, step s = .next t →
    (t.op = s.op ∧ t.color = s.color ∧ t.a0 = s.a0 ∧ t.a1 = s.a1 ∧ t.a2 = s.a2 ∧ t.a3 = s.a3) ∨
    (unitToMove s ∧ s.phase = .idle ∧ ∃ cmd, s.offer = some cmd ∧
      t.op = cmd.extractLsb' 152 8 ∧ t.color = cmd.extractLsb' 128 24 ∧
      t.a0 = cmd.extractLsb' 96 32 ∧ t.a1 = cmd.extractLsb' 64 32 ∧
      t.a2 = cmd.extractLsb' 32 32 ∧ t.a3 = cmd.extractLsb' 0 32) ∨
    (∃ rest, s.turns = .host .reset :: rest)

/-- The whole machine: an offer stands until it is taken, withdrawn or replaced
(70_reset_and_hazards.md section 3). That a reset leaves it standing is the model's choice
(log 14). -/
def Obligations.OfferStandsUntilTakenOrWithdrawn : Prop :=
  ∀ (s t : State) (cmd : Command), s.offer = some cmd → step s = .next t →
    t.offer = some cmd ∨
    (unitToMove s ∧ s.phase = .idle ∧ t.offer = none) ∨
    (∃ rest, s.turns = .host .withdraw :: rest ∧ t.offer = none) ∨
    (∃ cmd' rest, s.turns = .host (.offer cmd') :: rest ∧ t.offer = some cmd')

/-- The whole machine: no step changes `W` or `H` (10_state.md section 6). -/
def Obligations.SurfaceSizeNeverChanges : Prop :=
  ∀ s t : State, step s = .next t → t.w = s.w ∧ t.h = s.h

/-! ## POINT -/

/-- R110: POINT, with its frame. -/
def Obligations.PointDrawsItsPixelAndFinishes : Prop :=
  ∀ (c : Color) (a0 a1 a2 a3 : Word) (s : State), s.phase = .idle →
    (encode (.point c a0 a1 a2 a3)).extractLsb' 152 8 = 0x0C#8 ∧
    ∃ t, exec (.point c a0 a1 a2 a3) s = .next t ∧
      t = { s with
        op := 0x0C
        color := c
        a0 := a0
        a1 := a1
        a2 := a2
        a3 := a3
        phase := .idle
        surf := t.surf } ∧
      (0 ≤ a0.toInt ∧ a0.toInt < s.w.toNat ∧ 0 ≤ a1.toInt ∧ a1.toInt < s.h.toNat →
        draws s.w s.h (.point c a0 a1 a2 a3) = [(a0.toInt, a1.toInt)] ∧
        ∀ addr : Nat, surfRead t addr =
          if (addr : Int) = a1.toInt * s.w.toNat + a0.toInt then (0xFF : BitVec 8) ++ c
          else surfRead s addr) ∧
      (¬(0 ≤ a0.toInt ∧ a0.toInt < s.w.toNat ∧ 0 ≤ a1.toInt ∧ a1.toInt < s.h.toNat) →
        draws s.w s.h (.point c a0 a1 a2 a3) = [] ∧ t.surf = s.surf)

/-- R74: the fields a POINT does not use change nothing but their own latches. -/
def Obligations.PointIgnoresUnusedFields : Prop :=
  ∀ (c : Color) (a0 a1 a2 a3 b2 b3 : Word) (s : State), s.phase = .idle →
    decode (encode (.point c a0 a1 b2 b3)) = .ok (.point c a0 a1 b2 b3) ∧
    ∃ t, exec (.point c a0 a1 a2 a3) s = .next t ∧
      exec (.point c a0 a1 b2 b3) s = .next { t with a2 := b2, a3 := b3 }

/-- 41_point.md, corner cases: the same point twice leaves the second colour, and with the same
colour the surface of once. -/
def Obligations.PointTwiceKeepsTheSecondColour : Prop :=
  ∀ (c d : Color) (a0 a1 a2 a3 : Word) (s : State), s.phase = .idle →
    ∃ t u v, exec (.point c a0 a1 a2 a3) s = .next t ∧
      exec (.point d a0 a1 a2 a3) t = .next u ∧
      exec (.point d a0 a1 a2 a3) s = .next v ∧ u = v

/-! ## RECT -/

/-- R117: RECT, accept part, with its frame; the edges are those of R116. -/
def Obligations.RectStartsAtTheClippedCorner : Prop :=
  ∀ (c : Color) (a0 a1 a2 a3 : Word) (s : State) (l r t b : Int), s.phase = .idle →
    l = max a0.toInt 0 → r = min (a0.toInt + a2.toInt) s.w.toNat →
    t = max a1.toInt 0 → b = min (a1.toInt + a3.toInt) s.h.toNat →
    (encode (.rect c a0 a1 a2 a3)).extractLsb' 152 8 = 0x0E#8 ∧
    (l < r ∧ t < b →
      ∃ u, exec (.rect c a0 a1 a2 a3) s = .next u ∧ u.cx.toInt = l ∧ u.cy.toInt = t ∧
        u = { s with
          op := 0x0E
          color := c
          a0 := a0
          a1 := a1
          a2 := a2
          a3 := a3
          cx := u.cx
          cy := u.cy
          phase := .rect }) ∧
    (¬(l < r ∧ t < b) →
      exec (.rect c a0 a1 a2 a3) s = .next { s with
        op := 0x0E
        color := c
        a0 := a0
        a1 := a1
        a2 := a2
        a3 := a3
        phase := .idle })

/-- R118: RECT, run step, with its frame, from every state that meets the rule's invariant on
entry. -/
def Obligations.RectRunStepWritesOneCellAndMovesOn : Prop :=
  ∀ (s : State) (l r t b : Int), unitToMove s → s.phase = .rect →
    l = max s.a0.toInt 0 → r = min (s.a0.toInt + s.a2.toInt) s.w.toNat →
    t = max s.a1.toInt 0 → b = min (s.a1.toInt + s.a3.toInt) s.h.toNat →
    l ≤ s.cx.toInt → s.cx.toInt < r → t ≤ s.cy.toInt → s.cy.toInt < b →
    ∃ u, step s = .next u ∧
      u = { s with
        turns := s.turns.tail
        cx := u.cx
        cy := u.cy
        phase := u.phase
        surf := u.surf } ∧
      (∀ addr : Nat, surfRead u addr =
        if (addr : Int) = s.cy.toInt * s.w.toNat + s.cx.toInt then (0xFF : BitVec 8) ++ s.color
        else surfRead s addr) ∧
      (s.cx.toInt + 1 < r →
        u.cx.toInt = s.cx.toInt + 1 ∧ u.cy = s.cy ∧ u.phase = .rect) ∧
      (¬ s.cx.toInt + 1 < r → s.cy.toInt + 1 < b →
        u.cx.toInt = l ∧ u.cy.toInt = s.cy.toInt + 1 ∧ u.phase = .rect) ∧
      (¬ s.cx.toInt + 1 < r → ¬ s.cy.toInt + 1 < b →
        u.cx = s.cx ∧ u.cy = s.cy ∧ u.phase = .idle)

/-- 42_rect.md R116: the clipped edges and their ranges. -/
def Obligations.RectEdgesLieOnTheSurface : Prop :=
  ∀ (s : State) (l r t b : Int), clipOf s = ⟨l, r, t, b⟩ →
    l = max s.a0.toInt 0 ∧ r = min (s.a0.toInt + s.a2.toInt) s.w.toNat ∧
    t = max s.a1.toInt 0 ∧ b = min (s.a1.toInt + s.a3.toInt) s.h.toNat ∧
    (clipNonEmpty (clipOf s) = true ↔ l < r ∧ t < b) ∧
    0 ≤ l ∧ l ≤ 2147483647 ∧ 0 ≤ t ∧ t ≤ 2147483647 ∧
    -4294967296 ≤ r ∧ r ≤ s.w.toNat ∧ -4294967296 ≤ b ∧ b ≤ s.h.toNat ∧
    (clipNonEmpty (clipOf s) = true →
      0 ≤ l ∧ l < r ∧ r ≤ s.w.toNat ∧ 0 ≤ t ∧ t < b ∧ b ≤ s.h.toNat ∧
      l < 65536 ∧ r < 65536 ∧ t < 65536 ∧ b < 65536)

/-- 42_rect.md R119, the command-level meaning: the points of a RECT are exactly the
intersection of the requested rectangle with the surface, each once, `(R-L)*(B-T)` of them, at most
`W*H`. -/
def Obligations.RectPointsAreTheIntersection : Prop :=
  ∀ (w h : BitVec 16) (c : Color) (a0 a1 a2 a3 : Word),
    (∀ x y : Int, (x, y) ∈ draws w h (.rect c a0 a1 a2 a3) ↔
      (a0.toInt ≤ x ∧ x < a0.toInt + a2.toInt ∧ a1.toInt ≤ y ∧ y < a1.toInt + a3.toInt) ∧
      (0 ≤ x ∧ x < w.toNat ∧ 0 ≤ y ∧ y < h.toNat)) ∧
    (draws w h (.rect c a0 a1 a2 a3)).Pairwise
      (fun p q => p.2 < q.2 ∨ (p.2 = q.2 ∧ p.1 < q.1)) ∧
    (draws w h (.rect c a0 a1 a2 a3)).length = runStepCount w h (.rect c a0 a1 a2 a3) ∧
    runStepCount w h (.rect c a0 a1 a2 a3) ≤ cellCount w h

/-- 42_rect.md R120, the corner cases: a rectangle of no width or height or wholly off the
surface draws nothing and is finished by its accept step; the sums are exact. -/
def Obligations.EmptyRectangleFinishesAtOnce : Prop :=
  ∀ (c : Color) (a0 a1 a2 a3 : Word) (s : State), s.phase = .idle →
    a2.toInt ≤ 0 ∨ a3.toInt ≤ 0 ∨ (s.w.toNat : Int) ≤ a0.toInt ∨ (s.h.toNat : Int) ≤ a1.toInt ∨
      a0.toInt + a2.toInt ≤ 0 ∨ a1.toInt + a3.toInt ≤ 0 →
    draws s.w s.h (.rect c a0 a1 a2 a3) = [] ∧
    ∃ t, exec (.rect c a0 a1 a2 a3) s = .next t ∧ t.phase = .idle ∧ t.surf = s.surf

/-- The RECT steps refine the command-level meaning (42_rect.md R119; 40_command_cycle.md
section 6): after the accept step and `m` run steps exactly the first `m` points are drawn, and the
unit is IDLE again exactly when all are. -/
def Obligations.RectCommandPaintsItsRectangle : Prop :=
  ∀ (s : State) (cmd : Command) (c : Color) (a0 a1 a2 a3 : Word) (m : Nat),
    s.turns = [] → s.phase = .idle → s.offer = some cmd →
    decode cmd = .ok (.rect c a0 a1 a2 a3) →
    m ≤ (draws s.w s.h (.rect c a0 a1 a2 a3)).length →
    ∃ t, runFor (1 + m) s = .next t ∧
      t = { s with
        offer := none
        op := 0x0E
        color := c
        a0 := a0
        a1 := a1
        a2 := a2
        a3 := a3
        cx := t.cx
        cy := t.cy
        phase := if m = (draws s.w s.h (.rect c a0 a1 a2 a3)).length then .idle else .rect
        surf := paint s.w c ((draws s.w s.h (.rect c a0 a1 a2 a3)).take m) s.surf }

/-! ## LINE -/

/-- R132: LINE, accept part, with its frame (`DX + DY` as R131 gives them). -/
def Obligations.LineStartsAtItsFirstPoint : Prop :=
  ∀ (c : Color) (a0 a1 a2 a3 : Word) (s : State), s.phase = .idle →
    exec (.line c a0 a1 a2 a3) s = .next { s with
      op := 0x0D
      color := c
      a0 := a0
      a1 := a1
      a2 := a2
      a3 := a3
      cx := a0
      cy := a1
      err := |a2.toInt - a0.toInt| + -|a3.toInt - a1.toInt|
      phase := .line }

/-- R133 and R134: LINE, run step, with its frame: the point is drawn exactly when it is in bounds,
the walk stops exactly at the end point, and otherwise `Advance` moves it, both tests seeing the
`E2` of before. From every state whose walker is on the walk of its line (LineOk, the part of the
invariant that LINE's reachable states keep). -/
def Obligations.LineRunStepVisitsOnePoint : Prop :=
  ∀ (s : State) (dx dy sx sy e2 : Int), unitToMove s → s.phase = .line → LineOk s →
    dx = |s.a2.toInt - s.a0.toInt| → dy = -|s.a3.toInt - s.a1.toInt| →
    sx = (if s.a0.toInt < s.a2.toInt then 1 else -1) →
    sy = (if s.a1.toInt < s.a3.toInt then 1 else -1) →
    e2 = 2 * s.err →
    (dy ≤ e2 ∨ e2 ≤ dx) ∧
    ∃ u, step s = .next u ∧
      u = { s with
        turns := s.turns.tail
        cx := u.cx
        cy := u.cy
        err := u.err
        phase := u.phase
        surf := u.surf } ∧
      (0 ≤ s.cx.toInt ∧ s.cx.toInt < s.w.toNat ∧ 0 ≤ s.cy.toInt ∧ s.cy.toInt < s.h.toNat →
        ∀ addr : Nat, surfRead u addr =
          if (addr : Int) = s.cy.toInt * s.w.toNat + s.cx.toInt then (0xFF : BitVec 8) ++ s.color
          else surfRead s addr) ∧
      (¬(0 ≤ s.cx.toInt ∧ s.cx.toInt < s.w.toNat ∧ 0 ≤ s.cy.toInt ∧ s.cy.toInt < s.h.toNat) →
        u.surf = s.surf) ∧
      (s.cx = s.a2 ∧ s.cy = s.a3 →
        u.phase = .idle ∧ u.cx = s.cx ∧ u.cy = s.cy ∧ u.err = s.err) ∧
      (¬(s.cx = s.a2 ∧ s.cy = s.a3) →
        u.phase = .line ∧
        u.cx.toInt = (if dy ≤ e2 then s.cx.toInt + sx else s.cx.toInt) ∧
        u.cy.toInt = (if e2 ≤ dx then s.cy.toInt + sy else s.cy.toInt) ∧
        u.err = s.err + (if dy ≤ e2 then dy else 0) + (if e2 ≤ dx then dx else 0))

/-- 43_line.md section 3, the closed form: it gives every visited point of every line. -/
def Obligations.WalkEqualsClosedForm : Prop :=
  ∀ (g : Segment) (k : Nat), k ≤ lineN g → visitAt g k = closedVisit g k

/-- 43_line.md section 3 and section 4: the walk reaches the end point after exactly
`N = max(DX, -DY)` calls of `Advance`, not before, and visits `N + 1` points, pairwise different. -/
def Obligations.WalkReachesTheEndAfterNSteps : Prop :=
  ∀ g : Segment,
    visitAt g 0 = (g.x1, g.y1) ∧
    visitAt g (lineN g) = (g.x2, g.y2) ∧
    (∀ k, k < lineN g → visitAt g k ≠ (g.x2, g.y2)) ∧
    (lineVisits g).length = lineN g + 1 ∧ (lineVisits g).Nodup ∧
    (lineN g : Int) = max |g.x2 - g.x1| |g.y2 - g.y1|

/-- 43_line.md section 4, shape of a step: the major coordinate moves by one toward the end point,
the minor by zero or one toward it. -/
def Obligations.WalkStepMovesTowardTheEnd : Prop :=
  ∀ (g : Segment) (k : Nat), k < lineN g →
    (|g.y2 - g.y1| ≤ |g.x2 - g.x1| →
      (walkAt g (k + 1)).cx = (walkAt g k).cx + lineSX g) ∧
    (|g.x2 - g.x1| ≤ |g.y2 - g.y1| →
      (walkAt g (k + 1)).cy = (walkAt g k).cy + lineSY g) ∧
    ((walkAt g (k + 1)).cx = (walkAt g k).cx ∨
      (walkAt g (k + 1)).cx = (walkAt g k).cx + lineSX g) ∧
    ((walkAt g (k + 1)).cy = (walkAt g k).cy ∨
      (walkAt g (k + 1)).cy = (walkAt g k).cy + lineSY g) ∧
    |g.x2 - (walkAt g (k + 1)).cx| ≤ |g.x2 - (walkAt g k).cx| ∧
    |g.y2 - (walkAt g (k + 1)).cy| ≤ |g.y2 - (walkAt g k).cy|

/-- 43_line.md section 4: every visited point lies in the box of the two end points, and `ERR`
keeps to `3*DY/2 - 1 <= ERR <= 3*DX/2 + 1`. -/
def Obligations.WalkStaysInItsBox : Prop :=
  ∀ (g : Segment) (k : Nat), k ≤ lineN g →
    min g.x1 g.x2 ≤ (walkAt g k).cx ∧ (walkAt g k).cx ≤ max g.x1 g.x2 ∧
    min g.y1 g.y2 ≤ (walkAt g k).cy ∧ (walkAt g k).cy ≤ max g.y1 g.y2 ∧
    3 * lineDY g - 2 ≤ 2 * (walkAt g k).err ∧ 2 * (walkAt g k).err ≤ 3 * lineDX g + 2

/-- 43_line.md section 4, the special lines, on which every integer Bresenham formulation
agrees. -/
def Obligations.SpecialLinesVisitTheirPoints : Prop :=
  ∀ g : Segment,
    (g.x1 = g.x2 → g.y1 = g.y2 → lineVisits g = [(g.x1, g.y1)]) ∧
    (g.y1 = g.y2 → lineVisits g =
      (List.range ((g.x2 - g.x1).natAbs + 1)).map fun k : Nat => (g.x1 + lineSX g * k, g.y1)) ∧
    (g.x1 = g.x2 → lineVisits g =
      (List.range ((g.y2 - g.y1).natAbs + 1)).map fun k : Nat => (g.x1, g.y1 + lineSY g * k)) ∧
    (|g.x2 - g.x1| = |g.y2 - g.y1| → lineVisits g =
      (List.range ((g.x2 - g.x1).natAbs + 1)).map fun k : Nat =>
        (g.x1 + lineSX g * k, g.y1 + lineSY g * k))

/-- The LINE steps refine the command-level meaning (43_line.md section 3; 40_command_cycle.md
section 6): after the accept step and `m` run steps the first `m` points are visited and exactly
those of them in bounds are drawn; after `N + 1` the unit is IDLE and `Draws(cmd)` is drawn. -/
def Obligations.LineCommandPaintsItsVisitedPoints : Prop :=
  ∀ (s : State) (cmd : Command) (c : Color) (a0 a1 a2 a3 : Word) (g : Segment),
    s.turns = [] → s.phase = .idle → s.offer = some cmd →
    decode cmd = .ok (.line c a0 a1 a2 a3) →
    g = ⟨a0.toInt, a1.toInt, a2.toInt, a3.toInt⟩ →
    runStepCount s.w s.h (.line c a0 a1 a2 a3) = lineN g + 1 ∧
    draws s.w s.h (.line c a0 a1 a2 a3) =
      ((lineVisits g).take (lineN g + 1)).filter (fun p => inBounds s.w s.h p.1 p.2) ∧
    ∀ m, m ≤ lineN g + 1 →
    ∃ t, runFor (1 + m) s = .next t ∧
      t = { s with
        offer := none
        op := 0x0D
        color := c
        a0 := a0
        a1 := a1
        a2 := a2
        a3 := a3
        cx := t.cx
        cy := t.cy
        err := t.err
        phase := if m = lineN g + 1 then .idle else .line
        surf := paint s.w c
          (((lineVisits g).take m).filter fun p => inBounds s.w s.h p.1 p.2) s.surf }

/-- 43_line.md section 4: the drawn points of a LINE are one unbroken run of its visited list. -/
def Obligations.DrawnPointsAreOneRun : Prop :=
  ∀ (w h : BitVec 16) (g : Segment), ∃ i n,
    (lineVisits g).filter (fun p => inBounds w h p.1 p.2) = ((lineVisits g).drop i).take n

/-- 43_line.md section 5, the first corner case: a line with both ends on the surface draws every
visited point, `N + 1` different cells. -/
def Obligations.LineInsideTheSurfaceDrawsEveryPoint : Prop :=
  ∀ (w h : BitVec 16) (c : Color) (a0 a1 a2 a3 : Word),
    inBounds w h a0.toInt a1.toInt = true → inBounds w h a2.toInt a3.toInt = true →
    draws w h (.line c a0 a1 a2 a3) = lineVisits (segmentOfOperands a0 a1 a2 a3) ∧
    ((draws w h (.line c a0 a1 a2 a3)).map fun p => pixelAddr w p.1 p.2).Nodup ∧
    (draws w h (.line c a0 a1 a2 a3)).length = runStepCount w h (.line c a0 a1 a2 a3)

/-! ## The surface -/

/-- 20_memory.md section 1: `SurfWrite` sets the one cell and changes nothing else. -/
def Obligations.SurfWriteChangesOneCell : Prop :=
  ∀ (s : State) (addr : Nat) (v : Pixel), addr < cellCount s.w s.h →
    surfWrite addr v s = { s with surf := (surfWrite addr v s).surf } ∧
    (∀ other, surfRead (surfWrite addr v s) other = if other = addr then v else surfRead s other)

/-- R53: the address of an in-bounds pixel is `y*W + x`, in range, and two different in-bounds
pixels have different addresses. -/
def Obligations.PixelAddressInRangeAndInjective : Prop :=
  ∀ (w h : BitVec 16) (x y x' y' : Int),
    0 ≤ x → x < w.toNat → 0 ≤ y → y < h.toNat →
    (pixelAddr w x y : Int) = y * w.toNat + x ∧
    pixelAddr w x y < w.toNat * h.toNat ∧
    (0 ≤ x' → x' < w.toNat → 0 ≤ y' → y' < h.toNat → pixelAddr w x y = pixelAddr w x' y' →
      x = x' ∧ y = y')

/-- R51: the layout of the value `SetPixel` leaves in its cell, and what a host's `getp` reads
back. -/
def Obligations.WrittenCellLayout : Prop :=
  ∀ (c : Color) (x y : Int) (s : State) (v : Pixel), onSurface s x y = true →
    v = surfRead (setPixel x y c s) (pixelAddr s.w x y) →
    v.extractLsb' 24 8 = 0xFF#8 ∧
    v.extractLsb' 16 8 = c.extractLsb' 16 8 ∧
    v.extractLsb' 8 8 = c.extractLsb' 8 8 ∧
    v.extractLsb' 0 8 = c.extractLsb' 0 8 ∧
    v = 0xFF#8 ++ c ∧ getpValue v = 0#8 ++ c

/-- 20_memory.md section 2: a host read gives the cell and has no side effect; a cell nothing has
written gives the unspecified value SURF_INIT; out of range there is no step. That SURF_INIT is the
opaque `Config.surfInit` of the number of resets and the cell index is the model's choice (log 2),
and that a cell written before a reset still reads as written after it is the model's reading
(log 3). -/
def Obligations.HostReadsTheCellItAsksFor : Prop :=
  ∀ (s : State) (addr : Nat) (rest : List Turn), s.turns = .host (.readCell addr) :: rest →
    (addr < s.w.toNat * s.h.toNat →
      ∃ v, step s = .next { s with turns := rest, observed := .cell addr v :: s.observed } ∧
        (∀ u, s.surf.read? addr = some u → v = u) ∧
        (s.surf.read? addr = none → v = Config.surfInit s.resetCount addr)) ∧
    (¬ addr < s.w.toNat * s.h.toNat → ∃ r, step s = .refused r)

/-- R191: the host writes cells only while `PHASE = IDLE`; elsewhere the model has no step. That an
out-of-range write has none either is the model's reading (log 11) and is not stated here. -/
def Obligations.HostWritesOnlyInIdle : Prop :=
  ∀ (s : State) (addr : Nat) (v : Pixel) (rest : List Turn),
    s.turns = .host (.writeCell addr v) :: rest → addr < s.w.toNat * s.h.toNat →
    (s.phase = .idle →
      ∃ t, step s = .next t ∧ t = { s with turns := rest, surf := t.surf } ∧
        ∀ other, surfRead t other = if other = addr then v else surfRead s other) ∧
    (s.phase ≠ .idle → ∃ r, step s = .refused r)

/-- 10_state.md section 6 and 60_exceptions.md section 1: the numbered registers a host can read,
and the cause code. The zero extension to 16 bits is the model's (log 15). -/
def Obligations.HostReadsTheNumberedRegisters : Prop :=
  ∀ (s : State) (r : HostReg) (rest : List Turn), s.turns = .host (.readReg r) :: rest →
    ∃ v, step s = .next { s with turns := rest, observed := .reg r v :: s.observed } ∧
      (r = .cr0 → v = s.w) ∧
      (r = .cr1 → v = s.h) ∧
      (r = .sr0 → v.toNat = match s.phase with
        | .idle => 0
        | .rect => 1
        | .line => 2
        | .fault => 3) ∧
      (r = .sr1 → v.toNat = s.faultOp.toNat) ∧
      (causeCode s = if s.phase = .fault then 1 else 0)

/-- 44_g1_binding.md: what the interpreter's draw instructions offer, and that an IDLE unit runs it
next. The zeros in the fields a POINT does not use, which the clause on the run of a POINT states,
are the model's choice (log 19). -/
def Obligations.HostInstructionsOfferTheirCommands : Prop :=
  ∀ (c : Color) (a0 a1 a2 a3 : Word) (s : State) (rest : List Turn), s.phase = .idle →
    (∃ cmd, hostPoint c a0 a1 = .offer cmd ∧ cmd.extractLsb' 152 8 = 0x0C#8 ∧
      cmd.extractLsb' 128 24 = c ∧ cmd.extractLsb' 96 32 = a0 ∧ cmd.extractLsb' 64 32 = a1) ∧
    (∃ cmd, hostLine c a0 a1 a2 a3 = .offer cmd ∧ cmd.extractLsb' 152 8 = 0x0D#8 ∧
      cmd.extractLsb' 128 24 = c ∧ cmd.extractLsb' 96 32 = a0 ∧ cmd.extractLsb' 64 32 = a1 ∧
      cmd.extractLsb' 32 32 = a2 ∧ cmd.extractLsb' 0 32 = a3) ∧
    (∃ cmd, hostRect c a0 a1 a2 a3 = .offer cmd ∧ cmd.extractLsb' 152 8 = 0x0E#8 ∧
      cmd.extractLsb' 128 24 = c ∧ cmd.extractLsb' 96 32 = a0 ∧ cmd.extractLsb' 64 32 = a1 ∧
      cmd.extractLsb' 32 32 = a2 ∧ cmd.extractLsb' 0 32 = a3) ∧
    (s.turns = .host (hostPoint c a0 a1) :: .unit :: rest →
      runFor 2 s = exec (.point c a0 a1 0 0) { s with offer := none, turns := rest }) ∧
    (s.turns = .host (hostLine c a0 a1 a2 a3) :: .unit :: rest →
      runFor 2 s = exec (.line c a0 a1 a2 a3) { s with offer := none, turns := rest }) ∧
    (s.turns = .host (hostRect c a0 a1 a2 a3) :: .unit :: rest →
      runFor 2 s = exec (.rect c a0 a1 a2 a3) { s with offer := none, turns := rest })

/-- R157: `getp` reads cell `a2*W + a1` and stores its low 24 bits; off the surface it has no step.
After a POINT there it stores the colour of the POINT. -/
def Obligations.GetpReadsThePackedColour : Prop :=
  ∀ (s : State) (a1 a2 : Word) (rest : List Turn),
    (0 ≤ a1.toInt ∧ a1.toInt < s.w.toNat ∧ 0 ≤ a2.toInt ∧ a2.toInt < s.h.toNat →
      ∃ addr : Nat, (addr : Int) = a2.toInt * s.w.toNat + a1.toInt ∧
        hostGetp s a1 a2 = some (.readCell addr) ∧
        (s.turns = .host (.readCell addr) :: rest →
          ∃ v, step s = .next { s with turns := rest, observed := .cell addr v :: s.observed } ∧
            v = surfRead s addr ∧ getpValue v = 0#8 ++ v.extractLsb' 0 24) ∧
        (s.phase = .idle → ∀ c : Color, ∃ t, exec (.point c a1 a2 0 0) s = .next t ∧
          hostGetp t a1 a2 = some (.readCell addr) ∧
          getpValue (surfRead t addr) = 0#8 ++ c)) ∧
    (¬(0 ≤ a1.toInt ∧ a1.toInt < s.w.toNat ∧ 0 ≤ a2.toInt ∧ a2.toInt < s.h.toNat) →
      hostGetp s a1 a2 = none)

/-- 20_memory.md sections 2 and 4: which cell a step of the unit writes, and with what: an accepted
POINT in bounds its own pixel, a RECT run step the pixel `(CX, CY)`, a LINE run step that pixel when
it is in bounds, each with `{0xFF, COLOR}` of its command, in a cell that exists; every other step
writes no cell. -/
def Obligations.UnitWritesAtMostOneCellPerStep : Prop :=
  ∀ s t : State, unitToMove s → step s = .next t →
    (∀ cmd, s.phase = .idle → s.offer = some cmd → cmd.extractLsb' 152 8 = 0x0C#8 →
      inBounds s.w s.h (cmdA0 cmd).toInt (cmdA1 cmd).toInt = true →
      pixelAddr s.w (cmdA0 cmd).toInt (cmdA1 cmd).toInt < s.w.toNat * s.h.toNat ∧
      t.surf = s.surf.write (pixelAddr s.w (cmdA0 cmd).toInt (cmdA1 cmd).toInt)
        (0xFF#8 ++ cmd.extractLsb' 128 24)) ∧
    (s.phase = .rect →
      inBounds s.w s.h s.cx.toInt s.cy.toInt = true ∧
      pixelAddr s.w s.cx.toInt s.cy.toInt < s.w.toNat * s.h.toNat ∧
      t.surf = s.surf.write (pixelAddr s.w s.cx.toInt s.cy.toInt) (0xFF#8 ++ s.color)) ∧
    (s.phase = .line → inBounds s.w s.h s.cx.toInt s.cy.toInt = true →
      pixelAddr s.w s.cx.toInt s.cy.toInt < s.w.toNat * s.h.toNat ∧
      t.surf = s.surf.write (pixelAddr s.w s.cx.toInt s.cy.toInt) (0xFF#8 ++ s.color)) ∧
    (¬(∃ cmd, s.phase = .idle ∧ s.offer = some cmd ∧ cmd.extractLsb' 152 8 = 0x0C#8 ∧
        inBounds s.w s.h (cmdA0 cmd).toInt (cmdA1 cmd).toInt = true) →
      s.phase ≠ .rect →
      ¬(s.phase = .line ∧ inBounds s.w s.h s.cx.toInt s.cy.toInt = true) →
      t.surf = s.surf)

/-- R59: the unit never reads the surface: with another surface it takes the same step and makes the
same write. A write replaces the cell, whatever it held, so the last write wins. -/
def Obligations.UnitNeverReadsTheSurface : Prop :=
  (∀ (m : Memory) (addr other : Nat) (v : Pixel),
    (m.write addr v).read? other = if other = addr then some v else m.read? other) ∧
  ∀ (s t : State) (m : Memory), unitToMove s → step s = .next t →
    ∃ t', step { s with surf := m } = .next t' ∧ t' = { t with surf := t'.surf } ∧
      ((t.surf = s.surf ∧ t'.surf = m) ∨
        ∃ addr v, t.surf = s.surf.write addr v ∧ t'.surf = m.write addr v)

/-- 10_state.md section 9: in IDLE the latches and the walker cannot matter: two runs that differ
only in them show a host the same states, stops and reads for ever. -/
def Obligations.HiddenRegistersDoNotMatterInIdle : Prop :=
  ∀ (s s' : State) (n : Nat), s.phase = .idle → visible s = visible s' →
    visibleOutcome (runFor n s) = visibleOutcome (runFor n s')

/-- 40_command_cycle.md section 6: the final surface does not depend on the order in which the
points are drawn, only on their set, and drawing them again changes nothing. -/
def Obligations.PaintDependsOnlyOnTheSet : Prop :=
  ∀ (w : BitVec 16) (c : Color) (points points' : List (Int × Int)) (m : Memory), Memory.wf m →
    (∀ p, p ∈ points ↔ p ∈ points') →
    paint w c points m = paint w c points' m ∧
    paint w c points (paint w c points m) = paint w c points m

/-- 40_command_cycle.md section 6 and 20_memory.md section 2: every legal command runs from IDLE to
IDLE in its number of steps and draws exactly its points, and running the same command again leaves
the surface as it is. -/
def Obligations.EveryCommandPaintsItsPointsOnce : Prop :=
  ∀ (s : State) (cmd : Command) (i : Instr), Memory.wf s.surf →
    s.turns = [] → s.phase = .idle → s.offer = some cmd → decode cmd = .ok i →
    ∃ t u, runFor (1 + runStepCount s.w s.h i) s = .next t ∧
      t.phase = .idle ∧ t.offer = none ∧ t.faultOp = s.faultOp ∧ t.w = s.w ∧ t.h = s.h ∧
      t.surf = paint s.w (colorOf i) (draws s.w s.h i) s.surf ∧
      runFor (1 + runStepCount s.w s.h i) { t with offer := some cmd } = .next u ∧
      u.surf = t.surf

/-- 10_state.md section 6: `W = 0` or `H = 0` is legal: no point is in bounds and no command draws anything. -/
def Obligations.EmptySurfaceDrawsNothing : Prop :=
  ∀ s : State, s.w = 0 ∨ s.h = 0 →
    cellCount s.w s.h = 0 ∧
    (∀ x y, inBounds s.w s.h x y = false) ∧
    (∀ i, draws s.w s.h i = []) ∧
    (∀ t, unitToMove s → step s = .next t → t.surf = s.surf)

/-! ## Fault and reset -/

/-- R173: FAULT and FAULT_OP are sticky, only reset clears them; meanwhile the surface stays and can
be read. -/
def Obligations.FaultLastsUntilReset : Prop :=
  ∀ s : State, s.phase = .fault →
    (∀ t, step s = .next t →
      (∃ rest, s.turns = .host .reset :: rest) ∨
      (t.phase = .fault ∧ t.faultOp = s.faultOp ∧ t.surf = s.surf ∧ t.op = s.op ∧
        t.color = s.color ∧ t.a0 = s.a0 ∧ t.a1 = s.a1 ∧ t.a2 = s.a2 ∧ t.a3 = s.a3 ∧
        t.cx = s.cx ∧ t.cy = s.cy ∧ t.err = s.err)) ∧
    (∀ rest, s.turns = .host .reset :: rest →
      ∃ t, step s = .next t ∧ t.phase = .idle ∧ t.faultOp = 0) ∧
    (∀ addr rest, s.turns = .host (.readCell addr) :: rest → addr < s.w.toNat * s.h.toNat →
      ∃ t, step s = .next t ∧ t.phase = .fault ∧ t.surf = s.surf)

/-- R185: reset, in every state. -/
def Obligations.ResetStepFromEveryState : Prop :=
  ∀ (s : State) (rest : List Turn), s.turns = .host .reset :: rest →
    ∃ t, step s = .next t ∧ t.phase = .idle ∧ t.faultOp = 0 ∧ t.w = s.w ∧ t.h = s.h ∧
      t.surf = s.surf ∧ t.turns = rest

/-- 70_reset_and_hazards.md section 1: reset abandons a running command: whatever the unit has
written keeps its value, and the unit is IDLE. After the reset the unit draws nothing by itself (the stop is the
model's, log 9). -/
def Obligations.ResetAbandonsARunningCommand : Prop :=
  ∀ (s : State), s.phase = .rect ∨ s.phase = .line → s.offer = none →
    s.turns = [.host .reset] →
    ∃ t, step s = .next t ∧ t.phase = .idle ∧ t.surf = s.surf ∧
      (∀ addr v, s.surf.read? addr = some v → surfRead t addr = v) ∧
      step t = .refused .noCommandOffered

/-- R35: the state after reset, for every `W` and `H`. The values the model names for the
unspecified registers are not stated. -/
def Obligations.StateAfterReset : Prop :=
  ∀ w h : BitVec 16,
    (State.resetWith w h).w = w ∧ (State.resetWith w h).h = h ∧
    (State.resetWith w h).phase = .idle ∧ (State.resetWith w h).faultOp = 0 ∧
    (∀ addr, (State.resetWith w h).surf.read? addr = none)

/-! ## Invariant -/

/-- The invariant of the machine holds after reset, for every surface size. -/
def Obligations.ResetStateKeepsInvariant : Prop :=
  ∀ w h : BitVec 16, StateOk (State.resetWith w h)

/-- Every step of the machine, the unit's and the host's, keeps the invariant: canonical surface, no
cell outside it, a RECT inside its clipped rectangle, a LINE on its walk, FAULT_OP right. -/
def Obligations.StepKeepsInvariant : Prop :=
  ∀ s t : State, StateOk s → step s = .next t → StateOk t

/-- 43_line.md section 4 and 70_reset_and_hazards.md section 3: every running command ends: a RECT
within `W*H` further steps, a LINE within `N + 1`, at most 4294967296. -/
def Obligations.RunningCommandEnds : Prop :=
  ∀ s : State, StateOk s → s.turns = [] → s.phase = .rect ∨ s.phase = .line →
    ∃ m t, runFor m s = .next t ∧ t.phase = .idle ∧
      (s.phase = .rect → m ≤ s.w.toNat * s.h.toNat) ∧
      (s.phase = .line → m ≤ lineN (segmentOf s) + 1) ∧
      m ≤ 4294967296

/-! ## The interpreter's colour -/

/-- 44_g1_binding.md: whatever the host's narrowing `COLOR_NARROW` is, the colour that `color a0, a1,
a2` sets stands in every later command's `CR`, `CG` and `CB`, from `a0`, `a1` and `a2` in this
order. -/
def Obligations.HostColourFillsTheChannels : Prop :=
  ∀ (narrow : Word → Byte) (a0 a1 a2 b0 b1 b2 b3 : Word) (cmd : Command),
    hostPoint (hostColor narrow a0 a1 a2) b0 b1 = .offer cmd ∨
      hostLine (hostColor narrow a0 a1 a2) b0 b1 b2 b3 = .offer cmd ∨
      hostRect (hostColor narrow a0 a1 a2) b0 b1 b2 b3 = .offer cmd →
    cmd.extractLsb' 128 8 = narrow a0 ∧ cmd.extractLsb' 136 8 = narrow a1 ∧
      cmd.extractLsb' 144 8 = narrow a2
end

