-- ==== Sys2Proof/Laws/Decode.lean ====
section
/-! SUPPORT. The decoder's cases and the fields of a packed command word. -/

namespace Sys2Proof

/-- Everything the decoder can answer. -/
theorem decode_cases (cmd : Command) :
    (cmdOp cmd = opPoint ∧ decode cmd =
        .ok (.point (cmdColor cmd) (cmdA0 cmd) (cmdA1 cmd) (cmdA2 cmd) (cmdA3 cmd))) ∨
    (cmdOp cmd = opLine ∧ decode cmd =
        .ok (.line (cmdColor cmd) (cmdA0 cmd) (cmdA1 cmd) (cmdA2 cmd) (cmdA3 cmd))) ∨
    (cmdOp cmd = opRect ∧ decode cmd =
        .ok (.rect (cmdColor cmd) (cmdA0 cmd) (cmdA1 cmd) (cmdA2 cmd) (cmdA3 cmd))) ∨
    (cmdOp cmd ≠ opPoint ∧ cmdOp cmd ≠ opLine ∧ cmdOp cmd ≠ opRect ∧
      decode cmd = .error (.illegalOp (cmdOp cmd))) := by
  unfold decode
  split
  · rename_i h; exact .inl ⟨h, rfl⟩
  · split
    · rename_i h; exact .inr (.inl ⟨h, rfl⟩)
    · split
      · rename_i h; exact .inr (.inr (.inl ⟨h, rfl⟩))
      · rename_i h1 h2 h3; exact .inr (.inr (.inr ⟨h1, h2, h3, rfl⟩))

section Fields

variable (op : OpCode) (color : Color) (a0 a1 a2 a3 : Word)

@[simp] theorem cmdOp_packCommand : cmdOp (packCommand op color a0 a1 a2 a3) = op := by
  unfold cmdOp packCommand
  ext i hi
  simp only [BitVec.getElem_extractLsb', BitVec.getLsbD_append]
  grind

@[simp] theorem cmdColor_packCommand : cmdColor (packCommand op color a0 a1 a2 a3) = color := by
  unfold cmdColor packCommand
  ext i hi
  simp only [BitVec.getElem_extractLsb', BitVec.getLsbD_append]
  grind

@[simp] theorem cmdA0_packCommand : cmdA0 (packCommand op color a0 a1 a2 a3) = a0 := by
  unfold cmdA0 packCommand
  ext i hi
  simp only [BitVec.getElem_extractLsb', BitVec.getLsbD_append]
  grind

@[simp] theorem cmdA1_packCommand : cmdA1 (packCommand op color a0 a1 a2 a3) = a1 := by
  unfold cmdA1 packCommand
  ext i hi
  simp only [BitVec.getElem_extractLsb', BitVec.getLsbD_append]
  grind

@[simp] theorem cmdA2_packCommand : cmdA2 (packCommand op color a0 a1 a2 a3) = a2 := by
  unfold cmdA2 packCommand
  ext i hi
  simp only [BitVec.getElem_extractLsb', BitVec.getLsbD_append]
  grind

@[simp] theorem cmdA3_packCommand : cmdA3 (packCommand op color a0 a1 a2 a3) = a3 := by
  unfold cmdA3 packCommand
  ext i hi
  simp only [BitVec.getElem_extractLsb', BitVec.getLsbD_append]
  grind

end Fields

end Sys2Proof
end

