-- ==== Sys2Proof/Laws/Memory.lean ====
section
/-! SUPPORT. The surface as data: what a write leaves to be read, and that a write keeps the
canonical form. -/

namespace Sys2Proof.Machine

theorem read_write_same (m : Memory) (addr : Nat) (v : Pixel) :
    (m.write addr v).read? addr = some v := by
  induction m with
  | nil => simp [Memory.write, Memory.read?]
  | cons p rest ih =>
    obtain ⟨b, u⟩ := p
    unfold Memory.write
    split
    · simp [Memory.read?]
    · split
      · simp [Memory.read?]
      · simp [Memory.read?, *]

theorem read_write_other (m : Memory) {addr other : Nat} (v : Pixel) (h : other ≠ addr) :
    (m.write addr v).read? other = m.read? other := by
  induction m with
  | nil => simp [Memory.write, Memory.read?, h]
  | cons p rest ih =>
    obtain ⟨b, u⟩ := p
    unfold Memory.write
    split
    · simp [Memory.read?, h]
    · split
      · rename_i hb
        simp [Memory.read?, h, ← hb]
      · simp [Memory.read?, ih]

/-- Every entry after a write is the written one or was there before. -/
theorem mem_write {m : Memory} {addr : Nat} {v : Pixel} {p : Nat × Pixel}
    (h : p ∈ m.write addr v) : p = (addr, v) ∨ p ∈ m := by
  induction m with
  | nil => simpa [Memory.write] using h
  | cons q rest ih =>
    obtain ⟨b, u⟩ := q
    unfold Memory.write at h
    split at h
    · simpa using h
    · split at h
      · rcases List.mem_cons.1 h with h | h
        · exact .inl h
        · exact .inr (List.mem_cons_of_mem _ h)
      · rcases List.mem_cons.1 h with h | h
        · exact .inr (h ▸ List.mem_cons_self)
        · exact (ih h).imp_right (List.mem_cons_of_mem _)

theorem wf_nil : Memory.wf [] := List.Pairwise.nil

/-- A write keeps the canonical form; it is the only operation that changes a surface. -/
theorem wf_write {m : Memory} (h : m.wf) (addr : Nat) (v : Pixel) : (m.write addr v).wf := by
  induction m with
  | nil => simp [Memory.write, Memory.wf]
  | cons q rest ih =>
    obtain ⟨b, u⟩ := q
    have hq := List.pairwise_cons.1 h
    unfold Memory.write
    split
    · rename_i hb
      refine List.pairwise_cons.2 ⟨fun p hp => ?_, h⟩
      rcases List.mem_cons.1 hp with rfl | hp
      · exact hb
      · exact lt_trans hb (hq.1 p hp)
    · split
      · rename_i hb
        subst hb
        exact List.pairwise_cons.2 ⟨hq.1, hq.2⟩
      · refine List.pairwise_cons.2 ⟨fun p hp => ?_, ih hq.2⟩
        rcases mem_write hp with rfl | hp
        · simp only; omega
        · exact hq.1 p hp

/-- A cell below the first listed index is not listed. -/
theorem read_none_of_lt {m : Memory} {addr : Nat} (h : ∀ p ∈ m, addr < p.1) :
    m.read? addr = none := by
  induction m with
  | nil => rfl
  | cons q rest ih =>
    have := h q List.mem_cons_self
    simp only [Memory.read?]
    rw [if_neg (by omega), ih fun p hp => h p (List.mem_cons_of_mem _ hp)]

/-- Equal reads are equal data: a surface in canonical form is determined by its cells. -/
theorem wf_ext {m n : Memory} (hm : m.wf) (hn : n.wf) (h : ∀ addr, m.read? addr = n.read? addr) :
    m = n := by
  induction m generalizing n with
  | nil =>
    cases n with
    | nil => rfl
    | cons q rest => simpa [Memory.read?] using h q.1
  | cons p rest ih =>
    cases n with
    | nil => simpa [Memory.read?] using h p.1
    | cons q rest' =>
      obtain ⟨b, u⟩ := p
      obtain ⟨c, v⟩ := q
      have hp := List.pairwise_cons.1 hm
      have hq := List.pairwise_cons.1 hn
      have hbc : b = c := by
        rcases lt_trichotomy b c with hlt | rfl | hlt
        · have := h b
          simp only [Memory.read?] at this
          rw [if_pos trivial, if_neg (by omega),
            read_none_of_lt fun p hp => lt_trans hlt (hq.1 p hp)] at this
          simp at this
        · rfl
        · have := h c
          simp only [Memory.read?] at this
          rw [if_pos trivial, if_neg (by omega),
            read_none_of_lt fun p hp' => lt_trans hlt (hp.1 p hp')] at this
          simp at this
      subst hbc
      have huv : u = v := by simpa [Memory.read?] using h b
      subst huv
      rw [ih hp.2 hq.2 fun addr => ?_]
      have := h addr
      simp only [Memory.read?] at this
      by_cases hab : addr = b
      · subst hab
        rw [read_none_of_lt hp.1, read_none_of_lt hq.1]
      · simpa [hab] using this

/-- What a cell reads as after one write of the unit or the host. -/
theorem surfRead_surfWrite (s : State) (addr other : Nat) (v : Pixel) :
    surfRead (surfWrite addr v s) other = if other = addr then v else surfRead s other := by
  unfold surfRead surfWrite
  split
  · rename_i h; subst h; simp [read_write_same]
  · rename_i h; simp [read_write_other _ _ h]

end Sys2Proof.Machine
end

