-- ==== Sys2Proof/Laws/State.lean ====
section
/-! SUPPORT. For each named update of the state, what it leaves in each field: one lemma per field
per update, so that no later proof unfolds a record update. -/

namespace Sys2Proof.Machine

variable (s : State)

/-! `surfWrite` -/

@[simp] theorem surfWrite_w (addr : Nat) (v : Pixel) : (surfWrite addr v s).w = s.w := rfl
@[simp] theorem surfWrite_h (addr : Nat) (v : Pixel) : (surfWrite addr v s).h = s.h := rfl
@[simp] theorem surfWrite_op (addr : Nat) (v : Pixel) : (surfWrite addr v s).op = s.op := rfl
@[simp] theorem surfWrite_color (addr : Nat) (v : Pixel) :
    (surfWrite addr v s).color = s.color := rfl
@[simp] theorem surfWrite_a0 (addr : Nat) (v : Pixel) : (surfWrite addr v s).a0 = s.a0 := rfl
@[simp] theorem surfWrite_a1 (addr : Nat) (v : Pixel) : (surfWrite addr v s).a1 = s.a1 := rfl
@[simp] theorem surfWrite_a2 (addr : Nat) (v : Pixel) : (surfWrite addr v s).a2 = s.a2 := rfl
@[simp] theorem surfWrite_a3 (addr : Nat) (v : Pixel) : (surfWrite addr v s).a3 = s.a3 := rfl
@[simp] theorem surfWrite_cx (addr : Nat) (v : Pixel) : (surfWrite addr v s).cx = s.cx := rfl
@[simp] theorem surfWrite_cy (addr : Nat) (v : Pixel) : (surfWrite addr v s).cy = s.cy := rfl
@[simp] theorem surfWrite_err (addr : Nat) (v : Pixel) : (surfWrite addr v s).err = s.err := rfl
@[simp] theorem surfWrite_phase (addr : Nat) (v : Pixel) :
    (surfWrite addr v s).phase = s.phase := rfl
@[simp] theorem surfWrite_faultOp (addr : Nat) (v : Pixel) :
    (surfWrite addr v s).faultOp = s.faultOp := rfl
@[simp] theorem surfWrite_surf (addr : Nat) (v : Pixel) :
    (surfWrite addr v s).surf = s.surf.write addr v := rfl
@[simp] theorem surfWrite_offer (addr : Nat) (v : Pixel) :
    (surfWrite addr v s).offer = s.offer := rfl
@[simp] theorem surfWrite_turns (addr : Nat) (v : Pixel) :
    (surfWrite addr v s).turns = s.turns := rfl
@[simp] theorem surfWrite_observed (addr : Nat) (v : Pixel) :
    (surfWrite addr v s).observed = s.observed := rfl
@[simp] theorem surfWrite_resetCount (addr : Nat) (v : Pixel) :
    (surfWrite addr v s).resetCount = s.resetCount := rfl

/-! `setPixel` -/

@[simp] theorem setPixel_w (x y : Int) (c : Color) : (setPixel x y c s).w = s.w := rfl
@[simp] theorem setPixel_h (x y : Int) (c : Color) : (setPixel x y c s).h = s.h := rfl
@[simp] theorem setPixel_op (x y : Int) (c : Color) : (setPixel x y c s).op = s.op := rfl
@[simp] theorem setPixel_color (x y : Int) (c : Color) : (setPixel x y c s).color = s.color := rfl
@[simp] theorem setPixel_a0 (x y : Int) (c : Color) : (setPixel x y c s).a0 = s.a0 := rfl
@[simp] theorem setPixel_a1 (x y : Int) (c : Color) : (setPixel x y c s).a1 = s.a1 := rfl
@[simp] theorem setPixel_a2 (x y : Int) (c : Color) : (setPixel x y c s).a2 = s.a2 := rfl
@[simp] theorem setPixel_a3 (x y : Int) (c : Color) : (setPixel x y c s).a3 = s.a3 := rfl
@[simp] theorem setPixel_cx (x y : Int) (c : Color) : (setPixel x y c s).cx = s.cx := rfl
@[simp] theorem setPixel_cy (x y : Int) (c : Color) : (setPixel x y c s).cy = s.cy := rfl
@[simp] theorem setPixel_err (x y : Int) (c : Color) : (setPixel x y c s).err = s.err := rfl
@[simp] theorem setPixel_phase (x y : Int) (c : Color) : (setPixel x y c s).phase = s.phase := rfl
@[simp] theorem setPixel_faultOp (x y : Int) (c : Color) :
    (setPixel x y c s).faultOp = s.faultOp := rfl
@[simp] theorem setPixel_surf (x y : Int) (c : Color) :
    (setPixel x y c s).surf = s.surf.write (pixelAddr s.w x y) (pixelValue c) := rfl
@[simp] theorem setPixel_offer (x y : Int) (c : Color) : (setPixel x y c s).offer = s.offer := rfl
@[simp] theorem setPixel_turns (x y : Int) (c : Color) : (setPixel x y c s).turns = s.turns := rfl
@[simp] theorem setPixel_observed (x y : Int) (c : Color) :
    (setPixel x y c s).observed = s.observed := rfl
@[simp] theorem setPixel_resetCount (x y : Int) (c : Color) :
    (setPixel x y c s).resetCount = s.resetCount := rfl

/-! `latch` -/

@[simp] theorem latch_w (op : OpCode) (color : Color) (a0 a1 a2 a3 : Word) :
    (latch op color a0 a1 a2 a3 s).w = s.w := rfl
@[simp] theorem latch_h (op : OpCode) (color : Color) (a0 a1 a2 a3 : Word) :
    (latch op color a0 a1 a2 a3 s).h = s.h := rfl
@[simp] theorem latch_op (op : OpCode) (color : Color) (a0 a1 a2 a3 : Word) :
    (latch op color a0 a1 a2 a3 s).op = op := rfl
@[simp] theorem latch_color (op : OpCode) (color : Color) (a0 a1 a2 a3 : Word) :
    (latch op color a0 a1 a2 a3 s).color = color := rfl
@[simp] theorem latch_a0 (op : OpCode) (color : Color) (a0 a1 a2 a3 : Word) :
    (latch op color a0 a1 a2 a3 s).a0 = a0 := rfl
@[simp] theorem latch_a1 (op : OpCode) (color : Color) (a0 a1 a2 a3 : Word) :
    (latch op color a0 a1 a2 a3 s).a1 = a1 := rfl
@[simp] theorem latch_a2 (op : OpCode) (color : Color) (a0 a1 a2 a3 : Word) :
    (latch op color a0 a1 a2 a3 s).a2 = a2 := rfl
@[simp] theorem latch_a3 (op : OpCode) (color : Color) (a0 a1 a2 a3 : Word) :
    (latch op color a0 a1 a2 a3 s).a3 = a3 := rfl
@[simp] theorem latch_cx (op : OpCode) (color : Color) (a0 a1 a2 a3 : Word) :
    (latch op color a0 a1 a2 a3 s).cx = s.cx := rfl
@[simp] theorem latch_cy (op : OpCode) (color : Color) (a0 a1 a2 a3 : Word) :
    (latch op color a0 a1 a2 a3 s).cy = s.cy := rfl
@[simp] theorem latch_err (op : OpCode) (color : Color) (a0 a1 a2 a3 : Word) :
    (latch op color a0 a1 a2 a3 s).err = s.err := rfl
@[simp] theorem latch_phase (op : OpCode) (color : Color) (a0 a1 a2 a3 : Word) :
    (latch op color a0 a1 a2 a3 s).phase = s.phase := rfl
@[simp] theorem latch_faultOp (op : OpCode) (color : Color) (a0 a1 a2 a3 : Word) :
    (latch op color a0 a1 a2 a3 s).faultOp = s.faultOp := rfl
@[simp] theorem latch_surf (op : OpCode) (color : Color) (a0 a1 a2 a3 : Word) :
    (latch op color a0 a1 a2 a3 s).surf = s.surf := rfl
@[simp] theorem latch_offer (op : OpCode) (color : Color) (a0 a1 a2 a3 : Word) :
    (latch op color a0 a1 a2 a3 s).offer = s.offer := rfl
@[simp] theorem latch_turns (op : OpCode) (color : Color) (a0 a1 a2 a3 : Word) :
    (latch op color a0 a1 a2 a3 s).turns = s.turns := rfl
@[simp] theorem latch_observed (op : OpCode) (color : Color) (a0 a1 a2 a3 : Word) :
    (latch op color a0 a1 a2 a3 s).observed = s.observed := rfl
@[simp] theorem latch_resetCount (op : OpCode) (color : Color) (a0 a1 a2 a3 : Word) :
    (latch op color a0 a1 a2 a3 s).resetCount = s.resetCount := rfl

/-! `setPhase` -/

@[simp] theorem setPhase_w (p : Phase) : (setPhase p s).w = s.w := rfl
@[simp] theorem setPhase_h (p : Phase) : (setPhase p s).h = s.h := rfl
@[simp] theorem setPhase_op (p : Phase) : (setPhase p s).op = s.op := rfl
@[simp] theorem setPhase_color (p : Phase) : (setPhase p s).color = s.color := rfl
@[simp] theorem setPhase_a0 (p : Phase) : (setPhase p s).a0 = s.a0 := rfl
@[simp] theorem setPhase_a1 (p : Phase) : (setPhase p s).a1 = s.a1 := rfl
@[simp] theorem setPhase_a2 (p : Phase) : (setPhase p s).a2 = s.a2 := rfl
@[simp] theorem setPhase_a3 (p : Phase) : (setPhase p s).a3 = s.a3 := rfl
@[simp] theorem setPhase_cx (p : Phase) : (setPhase p s).cx = s.cx := rfl
@[simp] theorem setPhase_cy (p : Phase) : (setPhase p s).cy = s.cy := rfl
@[simp] theorem setPhase_err (p : Phase) : (setPhase p s).err = s.err := rfl
@[simp] theorem setPhase_phase (p : Phase) : (setPhase p s).phase = p := rfl
@[simp] theorem setPhase_faultOp (p : Phase) : (setPhase p s).faultOp = s.faultOp := rfl
@[simp] theorem setPhase_surf (p : Phase) : (setPhase p s).surf = s.surf := rfl
@[simp] theorem setPhase_offer (p : Phase) : (setPhase p s).offer = s.offer := rfl
@[simp] theorem setPhase_turns (p : Phase) : (setPhase p s).turns = s.turns := rfl
@[simp] theorem setPhase_observed (p : Phase) : (setPhase p s).observed = s.observed := rfl
@[simp] theorem setPhase_resetCount (p : Phase) : (setPhase p s).resetCount = s.resetCount := rfl

/-! `setPosition` -/

@[simp] theorem setPosition_w (x y : Int) : (setPosition x y s).w = s.w := rfl
@[simp] theorem setPosition_h (x y : Int) : (setPosition x y s).h = s.h := rfl
@[simp] theorem setPosition_op (x y : Int) : (setPosition x y s).op = s.op := rfl
@[simp] theorem setPosition_color (x y : Int) : (setPosition x y s).color = s.color := rfl
@[simp] theorem setPosition_a0 (x y : Int) : (setPosition x y s).a0 = s.a0 := rfl
@[simp] theorem setPosition_a1 (x y : Int) : (setPosition x y s).a1 = s.a1 := rfl
@[simp] theorem setPosition_a2 (x y : Int) : (setPosition x y s).a2 = s.a2 := rfl
@[simp] theorem setPosition_a3 (x y : Int) : (setPosition x y s).a3 = s.a3 := rfl
@[simp] theorem setPosition_cx (x y : Int) : (setPosition x y s).cx = BitVec.ofInt 32 x := rfl
@[simp] theorem setPosition_cy (x y : Int) : (setPosition x y s).cy = BitVec.ofInt 32 y := rfl
@[simp] theorem setPosition_err (x y : Int) : (setPosition x y s).err = s.err := rfl
@[simp] theorem setPosition_phase (x y : Int) : (setPosition x y s).phase = s.phase := rfl
@[simp] theorem setPosition_faultOp (x y : Int) : (setPosition x y s).faultOp = s.faultOp := rfl
@[simp] theorem setPosition_surf (x y : Int) : (setPosition x y s).surf = s.surf := rfl
@[simp] theorem setPosition_offer (x y : Int) : (setPosition x y s).offer = s.offer := rfl
@[simp] theorem setPosition_turns (x y : Int) : (setPosition x y s).turns = s.turns := rfl
@[simp] theorem setPosition_observed (x y : Int) : (setPosition x y s).observed = s.observed := rfl
@[simp] theorem setPosition_resetCount (x y : Int) :
    (setPosition x y s).resetCount = s.resetCount := rfl

/-! `setErr` -/

@[simp] theorem setErr_w (e : Int) : (setErr e s).w = s.w := rfl
@[simp] theorem setErr_h (e : Int) : (setErr e s).h = s.h := rfl
@[simp] theorem setErr_op (e : Int) : (setErr e s).op = s.op := rfl
@[simp] theorem setErr_color (e : Int) : (setErr e s).color = s.color := rfl
@[simp] theorem setErr_a0 (e : Int) : (setErr e s).a0 = s.a0 := rfl
@[simp] theorem setErr_a1 (e : Int) : (setErr e s).a1 = s.a1 := rfl
@[simp] theorem setErr_a2 (e : Int) : (setErr e s).a2 = s.a2 := rfl
@[simp] theorem setErr_a3 (e : Int) : (setErr e s).a3 = s.a3 := rfl
@[simp] theorem setErr_cx (e : Int) : (setErr e s).cx = s.cx := rfl
@[simp] theorem setErr_cy (e : Int) : (setErr e s).cy = s.cy := rfl
@[simp] theorem setErr_err (e : Int) : (setErr e s).err = e := rfl
@[simp] theorem setErr_phase (e : Int) : (setErr e s).phase = s.phase := rfl
@[simp] theorem setErr_faultOp (e : Int) : (setErr e s).faultOp = s.faultOp := rfl
@[simp] theorem setErr_surf (e : Int) : (setErr e s).surf = s.surf := rfl
@[simp] theorem setErr_offer (e : Int) : (setErr e s).offer = s.offer := rfl
@[simp] theorem setErr_turns (e : Int) : (setErr e s).turns = s.turns := rfl
@[simp] theorem setErr_observed (e : Int) : (setErr e s).observed = s.observed := rfl
@[simp] theorem setErr_resetCount (e : Int) : (setErr e s).resetCount = s.resetCount := rfl

/-! `setWalker` -/

@[simp] theorem setWalker_w (p : Walker) : (setWalker p s).w = s.w := rfl
@[simp] theorem setWalker_h (p : Walker) : (setWalker p s).h = s.h := rfl
@[simp] theorem setWalker_op (p : Walker) : (setWalker p s).op = s.op := rfl
@[simp] theorem setWalker_color (p : Walker) : (setWalker p s).color = s.color := rfl
@[simp] theorem setWalker_a0 (p : Walker) : (setWalker p s).a0 = s.a0 := rfl
@[simp] theorem setWalker_a1 (p : Walker) : (setWalker p s).a1 = s.a1 := rfl
@[simp] theorem setWalker_a2 (p : Walker) : (setWalker p s).a2 = s.a2 := rfl
@[simp] theorem setWalker_a3 (p : Walker) : (setWalker p s).a3 = s.a3 := rfl
@[simp] theorem setWalker_cx (p : Walker) : (setWalker p s).cx = BitVec.ofInt 32 p.cx := rfl
@[simp] theorem setWalker_cy (p : Walker) : (setWalker p s).cy = BitVec.ofInt 32 p.cy := rfl
@[simp] theorem setWalker_err (p : Walker) : (setWalker p s).err = p.err := rfl
@[simp] theorem setWalker_phase (p : Walker) : (setWalker p s).phase = s.phase := rfl
@[simp] theorem setWalker_faultOp (p : Walker) : (setWalker p s).faultOp = s.faultOp := rfl
@[simp] theorem setWalker_surf (p : Walker) : (setWalker p s).surf = s.surf := rfl
@[simp] theorem setWalker_offer (p : Walker) : (setWalker p s).offer = s.offer := rfl
@[simp] theorem setWalker_turns (p : Walker) : (setWalker p s).turns = s.turns := rfl
@[simp] theorem setWalker_observed (p : Walker) : (setWalker p s).observed = s.observed := rfl
@[simp] theorem setWalker_resetCount (p : Walker) : (setWalker p s).resetCount = s.resetCount := rfl

/-! `clearOffer` -/

@[simp] theorem clearOffer_w : (clearOffer s).w = s.w := rfl
@[simp] theorem clearOffer_h : (clearOffer s).h = s.h := rfl
@[simp] theorem clearOffer_op : (clearOffer s).op = s.op := rfl
@[simp] theorem clearOffer_color : (clearOffer s).color = s.color := rfl
@[simp] theorem clearOffer_a0 : (clearOffer s).a0 = s.a0 := rfl
@[simp] theorem clearOffer_a1 : (clearOffer s).a1 = s.a1 := rfl
@[simp] theorem clearOffer_a2 : (clearOffer s).a2 = s.a2 := rfl
@[simp] theorem clearOffer_a3 : (clearOffer s).a3 = s.a3 := rfl
@[simp] theorem clearOffer_cx : (clearOffer s).cx = s.cx := rfl
@[simp] theorem clearOffer_cy : (clearOffer s).cy = s.cy := rfl
@[simp] theorem clearOffer_err : (clearOffer s).err = s.err := rfl
@[simp] theorem clearOffer_phase : (clearOffer s).phase = s.phase := rfl
@[simp] theorem clearOffer_faultOp : (clearOffer s).faultOp = s.faultOp := rfl
@[simp] theorem clearOffer_surf : (clearOffer s).surf = s.surf := rfl
@[simp] theorem clearOffer_offer : (clearOffer s).offer = none := rfl
@[simp] theorem clearOffer_turns : (clearOffer s).turns = s.turns := rfl
@[simp] theorem clearOffer_observed : (clearOffer s).observed = s.observed := rfl
@[simp] theorem clearOffer_resetCount : (clearOffer s).resetCount = s.resetCount := rfl

/-! `setOffer` -/

@[simp] theorem setOffer_w (cmd : Command) : (setOffer cmd s).w = s.w := rfl
@[simp] theorem setOffer_h (cmd : Command) : (setOffer cmd s).h = s.h := rfl
@[simp] theorem setOffer_op (cmd : Command) : (setOffer cmd s).op = s.op := rfl
@[simp] theorem setOffer_color (cmd : Command) : (setOffer cmd s).color = s.color := rfl
@[simp] theorem setOffer_a0 (cmd : Command) : (setOffer cmd s).a0 = s.a0 := rfl
@[simp] theorem setOffer_a1 (cmd : Command) : (setOffer cmd s).a1 = s.a1 := rfl
@[simp] theorem setOffer_a2 (cmd : Command) : (setOffer cmd s).a2 = s.a2 := rfl
@[simp] theorem setOffer_a3 (cmd : Command) : (setOffer cmd s).a3 = s.a3 := rfl
@[simp] theorem setOffer_cx (cmd : Command) : (setOffer cmd s).cx = s.cx := rfl
@[simp] theorem setOffer_cy (cmd : Command) : (setOffer cmd s).cy = s.cy := rfl
@[simp] theorem setOffer_err (cmd : Command) : (setOffer cmd s).err = s.err := rfl
@[simp] theorem setOffer_phase (cmd : Command) : (setOffer cmd s).phase = s.phase := rfl
@[simp] theorem setOffer_faultOp (cmd : Command) : (setOffer cmd s).faultOp = s.faultOp := rfl
@[simp] theorem setOffer_surf (cmd : Command) : (setOffer cmd s).surf = s.surf := rfl
@[simp] theorem setOffer_offer (cmd : Command) : (setOffer cmd s).offer = some cmd := rfl
@[simp] theorem setOffer_turns (cmd : Command) : (setOffer cmd s).turns = s.turns := rfl
@[simp] theorem setOffer_observed (cmd : Command) : (setOffer cmd s).observed = s.observed := rfl
@[simp] theorem setOffer_resetCount (cmd : Command) :
    (setOffer cmd s).resetCount = s.resetCount := rfl

/-! `setTurns` -/

@[simp] theorem setTurns_w (ts : List Turn) : (setTurns ts s).w = s.w := rfl
@[simp] theorem setTurns_h (ts : List Turn) : (setTurns ts s).h = s.h := rfl
@[simp] theorem setTurns_op (ts : List Turn) : (setTurns ts s).op = s.op := rfl
@[simp] theorem setTurns_color (ts : List Turn) : (setTurns ts s).color = s.color := rfl
@[simp] theorem setTurns_a0 (ts : List Turn) : (setTurns ts s).a0 = s.a0 := rfl
@[simp] theorem setTurns_a1 (ts : List Turn) : (setTurns ts s).a1 = s.a1 := rfl
@[simp] theorem setTurns_a2 (ts : List Turn) : (setTurns ts s).a2 = s.a2 := rfl
@[simp] theorem setTurns_a3 (ts : List Turn) : (setTurns ts s).a3 = s.a3 := rfl
@[simp] theorem setTurns_cx (ts : List Turn) : (setTurns ts s).cx = s.cx := rfl
@[simp] theorem setTurns_cy (ts : List Turn) : (setTurns ts s).cy = s.cy := rfl
@[simp] theorem setTurns_err (ts : List Turn) : (setTurns ts s).err = s.err := rfl
@[simp] theorem setTurns_phase (ts : List Turn) : (setTurns ts s).phase = s.phase := rfl
@[simp] theorem setTurns_faultOp (ts : List Turn) : (setTurns ts s).faultOp = s.faultOp := rfl
@[simp] theorem setTurns_surf (ts : List Turn) : (setTurns ts s).surf = s.surf := rfl
@[simp] theorem setTurns_offer (ts : List Turn) : (setTurns ts s).offer = s.offer := rfl
@[simp] theorem setTurns_turns (ts : List Turn) : (setTurns ts s).turns = ts := rfl
@[simp] theorem setTurns_observed (ts : List Turn) : (setTurns ts s).observed = s.observed := rfl
@[simp] theorem setTurns_resetCount (ts : List Turn) :
    (setTurns ts s).resetCount = s.resetCount := rfl

/-! `observe` -/

@[simp] theorem observe_w (o : Observation) : (observe o s).w = s.w := rfl
@[simp] theorem observe_h (o : Observation) : (observe o s).h = s.h := rfl
@[simp] theorem observe_op (o : Observation) : (observe o s).op = s.op := rfl
@[simp] theorem observe_color (o : Observation) : (observe o s).color = s.color := rfl
@[simp] theorem observe_a0 (o : Observation) : (observe o s).a0 = s.a0 := rfl
@[simp] theorem observe_a1 (o : Observation) : (observe o s).a1 = s.a1 := rfl
@[simp] theorem observe_a2 (o : Observation) : (observe o s).a2 = s.a2 := rfl
@[simp] theorem observe_a3 (o : Observation) : (observe o s).a3 = s.a3 := rfl
@[simp] theorem observe_cx (o : Observation) : (observe o s).cx = s.cx := rfl
@[simp] theorem observe_cy (o : Observation) : (observe o s).cy = s.cy := rfl
@[simp] theorem observe_err (o : Observation) : (observe o s).err = s.err := rfl
@[simp] theorem observe_phase (o : Observation) : (observe o s).phase = s.phase := rfl
@[simp] theorem observe_faultOp (o : Observation) : (observe o s).faultOp = s.faultOp := rfl
@[simp] theorem observe_surf (o : Observation) : (observe o s).surf = s.surf := rfl
@[simp] theorem observe_offer (o : Observation) : (observe o s).offer = s.offer := rfl
@[simp] theorem observe_turns (o : Observation) : (observe o s).turns = s.turns := rfl
@[simp] theorem observe_observed (o : Observation) : (observe o s).observed = o :: s.observed := rfl
@[simp] theorem observe_resetCount (o : Observation) :
    (observe o s).resetCount = s.resetCount := rfl

/-! `raiseIllegalCommand` -/

@[simp] theorem raiseIllegalCommand_w (op : OpCode) : (raiseIllegalCommand op s).w = s.w := rfl
@[simp] theorem raiseIllegalCommand_h (op : OpCode) : (raiseIllegalCommand op s).h = s.h := rfl
@[simp] theorem raiseIllegalCommand_op (op : OpCode) : (raiseIllegalCommand op s).op = s.op := rfl
@[simp] theorem raiseIllegalCommand_color (op : OpCode) :
    (raiseIllegalCommand op s).color = s.color := rfl
@[simp] theorem raiseIllegalCommand_a0 (op : OpCode) : (raiseIllegalCommand op s).a0 = s.a0 := rfl
@[simp] theorem raiseIllegalCommand_a1 (op : OpCode) : (raiseIllegalCommand op s).a1 = s.a1 := rfl
@[simp] theorem raiseIllegalCommand_a2 (op : OpCode) : (raiseIllegalCommand op s).a2 = s.a2 := rfl
@[simp] theorem raiseIllegalCommand_a3 (op : OpCode) : (raiseIllegalCommand op s).a3 = s.a3 := rfl
@[simp] theorem raiseIllegalCommand_cx (op : OpCode) : (raiseIllegalCommand op s).cx = s.cx := rfl
@[simp] theorem raiseIllegalCommand_cy (op : OpCode) : (raiseIllegalCommand op s).cy = s.cy := rfl
@[simp] theorem raiseIllegalCommand_err (op : OpCode) :
    (raiseIllegalCommand op s).err = s.err := rfl
@[simp] theorem raiseIllegalCommand_phase (op : OpCode) :
    (raiseIllegalCommand op s).phase = .fault := rfl
@[simp] theorem raiseIllegalCommand_faultOp (op : OpCode) :
    (raiseIllegalCommand op s).faultOp = op := rfl
@[simp] theorem raiseIllegalCommand_surf (op : OpCode) :
    (raiseIllegalCommand op s).surf = s.surf := rfl
@[simp] theorem raiseIllegalCommand_offer (op : OpCode) :
    (raiseIllegalCommand op s).offer = s.offer := rfl
@[simp] theorem raiseIllegalCommand_turns (op : OpCode) :
    (raiseIllegalCommand op s).turns = s.turns := rfl
@[simp] theorem raiseIllegalCommand_observed (op : OpCode) :
    (raiseIllegalCommand op s).observed = s.observed := rfl
@[simp] theorem raiseIllegalCommand_resetCount (op : OpCode) :
    (raiseIllegalCommand op s).resetCount = s.resetCount := rfl

/-! `resetUnit` -/

@[simp] theorem resetUnit_w : (resetUnit s).w = s.w := rfl
@[simp] theorem resetUnit_h : (resetUnit s).h = s.h := rfl
@[simp] theorem resetUnit_op : (resetUnit s).op = Config.resetOp (s.resetCount + 1) := rfl
@[simp] theorem resetUnit_color : (resetUnit s).color = Config.resetColor (s.resetCount + 1) := rfl
@[simp] theorem resetUnit_a0 : (resetUnit s).a0 = Config.resetOperand (s.resetCount + 1) 0 := rfl
@[simp] theorem resetUnit_a1 : (resetUnit s).a1 = Config.resetOperand (s.resetCount + 1) 1 := rfl
@[simp] theorem resetUnit_a2 : (resetUnit s).a2 = Config.resetOperand (s.resetCount + 1) 2 := rfl
@[simp] theorem resetUnit_a3 : (resetUnit s).a3 = Config.resetOperand (s.resetCount + 1) 3 := rfl
@[simp] theorem resetUnit_cx : (resetUnit s).cx = Config.resetCx (s.resetCount + 1) := rfl
@[simp] theorem resetUnit_cy : (resetUnit s).cy = Config.resetCy (s.resetCount + 1) := rfl
@[simp] theorem resetUnit_err : (resetUnit s).err = Config.resetErr (s.resetCount + 1) := rfl
@[simp] theorem resetUnit_phase : (resetUnit s).phase = .idle := rfl
@[simp] theorem resetUnit_faultOp : (resetUnit s).faultOp = 0 := rfl
@[simp] theorem resetUnit_surf : (resetUnit s).surf = s.surf := rfl
@[simp] theorem resetUnit_offer : (resetUnit s).offer = s.offer := rfl
@[simp] theorem resetUnit_turns : (resetUnit s).turns = s.turns := rfl
@[simp] theorem resetUnit_observed : (resetUnit s).observed = s.observed := rfl
@[simp] theorem resetUnit_resetCount : (resetUnit s).resetCount = s.resetCount + 1 := rfl

/-! `plot` changes the surface at most. -/

@[simp] theorem plot_w (x y : Int) : (plot x y s).w = s.w := by
  unfold plot; split <;> rfl
@[simp] theorem plot_h (x y : Int) : (plot x y s).h = s.h := by
  unfold plot; split <;> rfl
@[simp] theorem plot_op (x y : Int) : (plot x y s).op = s.op := by
  unfold plot; split <;> rfl
@[simp] theorem plot_color (x y : Int) : (plot x y s).color = s.color := by
  unfold plot; split <;> rfl
@[simp] theorem plot_a0 (x y : Int) : (plot x y s).a0 = s.a0 := by
  unfold plot; split <;> rfl
@[simp] theorem plot_a1 (x y : Int) : (plot x y s).a1 = s.a1 := by
  unfold plot; split <;> rfl
@[simp] theorem plot_a2 (x y : Int) : (plot x y s).a2 = s.a2 := by
  unfold plot; split <;> rfl
@[simp] theorem plot_a3 (x y : Int) : (plot x y s).a3 = s.a3 := by
  unfold plot; split <;> rfl
@[simp] theorem plot_cx (x y : Int) : (plot x y s).cx = s.cx := by
  unfold plot; split <;> rfl
@[simp] theorem plot_cy (x y : Int) : (plot x y s).cy = s.cy := by
  unfold plot; split <;> rfl
@[simp] theorem plot_err (x y : Int) : (plot x y s).err = s.err := by
  unfold plot; split <;> rfl
@[simp] theorem plot_phase (x y : Int) : (plot x y s).phase = s.phase := by
  unfold plot; split <;> rfl
@[simp] theorem plot_faultOp (x y : Int) : (plot x y s).faultOp = s.faultOp := by
  unfold plot; split <;> rfl
@[simp] theorem plot_offer (x y : Int) : (plot x y s).offer = s.offer := by
  unfold plot; split <;> rfl
@[simp] theorem plot_turns (x y : Int) : (plot x y s).turns = s.turns := by
  unfold plot; split <;> rfl
@[simp] theorem plot_observed (x y : Int) : (plot x y s).observed = s.observed := by
  unfold plot; split <;> rfl
@[simp] theorem plot_resetCount (x y : Int) : (plot x y s).resetCount = s.resetCount := by
  unfold plot; split <;> rfl

theorem plot_surf (x y : Int) :
    (plot x y s).surf =
      if onSurface s x y then s.surf.write (pixelAddr s.w x y) (pixelValue s.color) else s.surf := by
  unfold plot; split <;> rfl

end Sys2Proof.Machine
end

