-- ==== Sys2Proof/Laws/Ops.lean ====
section
/-! SUPPORT. What each shared operation and each part of a command can do, said once. -/

namespace Sys2Proof.Machine

theorem inBounds_iff (w h : BitVec 16) (x y : Int) :
    inBounds w h x y = true ↔ 0 ≤ x ∧ x < w.toNat ∧ 0 ≤ y ∧ y < h.toNat := by
  simp [inBounds]

theorem clipNonEmpty_iff (c : Clip) :
    clipNonEmpty c = true ↔ c.left < c.right ∧ c.top < c.bottom := by
  simp [clipNonEmpty]

/-- A plotted pixel: one cell of the surface, or nothing. -/
theorem plot_cases (x y : Int) (s : State) :
    (onSurface s x y = true ∧
      plot x y s = surfWrite (pixelAddr s.w x y) (pixelValue s.color) s) ∨
    (onSurface s x y = false ∧ plot x y s = s) := by
  unfold plot
  split
  · rename_i h; exact .inl ⟨h, rfl⟩
  · rename_i h; exact .inr ⟨by simpa using h, rfl⟩

/-- The start of a RECT. -/
theorem startRect_cases (s : State) :
    (clipNonEmpty (clipOf s) = true ∧
      startRect s = setPhase .rect (setPosition (clipOf s).left (clipOf s).top s)) ∨
    (clipNonEmpty (clipOf s) = false ∧ startRect s = setPhase .idle s) := by
  unfold startRect
  split
  · rename_i h; exact .inl ⟨h, rfl⟩
  · rename_i h; exact .inr ⟨by simpa using h, rfl⟩

/-- The three ways a RECT goes on. -/
theorem rectAdvance_cases (s : State) :
    (s.cx.toInt + 1 < (clipOf s).right ∧
      rectAdvance s = setPosition (s.cx.toInt + 1) s.cy.toInt s) ∨
    ((clipOf s).right ≤ s.cx.toInt + 1 ∧ s.cy.toInt + 1 < (clipOf s).bottom ∧
      rectAdvance s = setPosition (clipOf s).left (s.cy.toInt + 1) s) ∨
    ((clipOf s).right ≤ s.cx.toInt + 1 ∧ (clipOf s).bottom ≤ s.cy.toInt + 1 ∧
      rectAdvance s = setPhase .idle s) := by
  unfold rectAdvance
  split
  · rename_i h; exact .inl ⟨h, rfl⟩
  · rename_i h
    split
    · rename_i h'; exact .inr (.inl ⟨not_lt.1 h, h', rfl⟩)
    · rename_i h'; exact .inr (.inr ⟨not_lt.1 h, not_lt.1 h', rfl⟩)

/-- The two ways a LINE goes on. -/
theorem lineAdvance_cases (s : State) :
    (s.cx = s.a2 ∧ s.cy = s.a3 ∧ lineAdvance s = setPhase .idle s) ∨
    (¬(s.cx = s.a2 ∧ s.cy = s.a3) ∧
      lineAdvance s = setWalker (advance (segmentOf s) (walkerOf s)) s) := by
  unfold lineAdvance
  split
  · rename_i h; exact .inl ⟨h.1, h.2, rfl⟩
  · rename_i h; exact .inr ⟨h, rfl⟩

/-- A RECT run step answers a next state exactly where its pixel is on the surface. -/
theorem rectRun_cases (s : State) :
    (onSurface s s.cx.toInt s.cy.toInt = true ∧
      rectRun s = .next (rectAdvance (setPixel s.cx.toInt s.cy.toInt s.color s))) ∨
    (onSurface s s.cx.toInt s.cy.toInt = false ∧ rectRun s = .fault .setPixelOffSurface) := by
  unfold rectRun
  split
  · rename_i h; exact .inl ⟨h, rfl⟩
  · rename_i h; exact .inr ⟨by simpa using h, rfl⟩

/-- A RECT's way on writes the position or PHASE and nothing else. -/
theorem rectAdvance_frame (s : State) :
    rectAdvance s =
      { s with cx := (rectAdvance s).cx, cy := (rectAdvance s).cy,
               phase := (rectAdvance s).phase } := by
  obtain ⟨-, h⟩ | ⟨-, -, h⟩ | ⟨-, -, h⟩ := rectAdvance_cases s <;> rw [h] <;> rfl

/-- A LINE's way on writes the walker or PHASE and nothing else. -/
theorem lineAdvance_frame (s : State) :
    lineAdvance s =
      { s with cx := (lineAdvance s).cx, cy := (lineAdvance s).cy, err := (lineAdvance s).err,
               phase := (lineAdvance s).phase } := by
  obtain ⟨-, -, h⟩ | ⟨-, h⟩ := lineAdvance_cases s <;> rw [h] <;> rfl

/-- The start of a RECT writes the position and PHASE and nothing else. -/
theorem startRect_frame (s : State) :
    startRect s =
      { s with cx := (startRect s).cx, cy := (startRect s).cy, phase := (startRect s).phase } := by
  obtain ⟨-, h⟩ | ⟨-, h⟩ := startRect_cases s <;> rw [h] <;> rfl

theorem startRect_phase (s : State) : (startRect s).phase = .rect ∨ (startRect s).phase = .idle := by
  obtain ⟨-, h⟩ | ⟨-, h⟩ := startRect_cases s <;> rw [h] <;> simp

theorem rectAdvance_phase {s : State} (hp : s.phase = .rect) :
    (rectAdvance s).phase = .rect ∨ (rectAdvance s).phase = .idle := by
  obtain ⟨-, h⟩ | ⟨-, -, h⟩ | ⟨-, -, h⟩ := rectAdvance_cases s <;> rw [h] <;> simp [hp]

theorem lineAdvance_phase {s : State} (hp : s.phase = .line) :
    (lineAdvance s).phase = .line ∨ (lineAdvance s).phase = .idle := by
  obtain ⟨-, -, h⟩ | ⟨-, h⟩ := lineAdvance_cases s <;> rw [h] <;> simp [hp]

/-- Every 32-bit operand, as an integer, is in the signed range. -/
theorem word_toInt_range (x : Word) : -2147483648 ≤ x.toInt ∧ x.toInt ≤ 2147483647 := by
  have h1 := BitVec.le_two_mul_toInt (x := x)
  have h2 := BitVec.two_mul_toInt_lt (x := x)
  omega

/-- An integer in the signed range is kept by the 32-bit registers. -/
theorem ofInt_toInt_of_range {x : Int} (h1 : -2147483648 ≤ x) (h2 : x ≤ 2147483647) :
    (BitVec.ofInt 32 x).toInt = x := by
  rw [BitVec.toInt_ofInt_eq_self] <;> simp <;> omega

/-- What a host step that has a next state does. -/
theorem hostStep_cases {h : HostStep} {s t : State} (ht : hostStep h s = .next t) :
    (∃ cmd, h = .offer cmd ∧ t = setOffer cmd s) ∨
    (h = .withdraw ∧ t = clearOffer s) ∨
    (∃ addr v, h = .writeCell addr v ∧ s.phase = .idle ∧ addr < cellCount s.w s.h ∧
      t = surfWrite addr v s) ∨
    (∃ addr, h = .readCell addr ∧ addr < cellCount s.w s.h ∧
      t = observe (.cell addr (surfRead s addr)) s) ∨
    (∃ r, h = .readReg r ∧ t = observe (.reg r (readHostReg r s)) s) ∨
    (h = .reset ∧ t = resetUnit s) := by
  cases h with
  | offer cmd => exact .inl ⟨cmd, rfl, by simpa [hostStep] using ht.symm⟩
  | withdraw => exact .inr (.inl ⟨rfl, by simpa [hostStep] using ht.symm⟩)
  | writeCell addr v =>
    simp only [hostStep, hostWriteCell] at ht
    split at ht
    · rename_i hi
      split at ht
      · rename_i hlt
        exact .inr (.inr (.inl ⟨addr, v, rfl, hi, hlt, by simpa using ht.symm⟩))
      · cases ht
    · cases ht
  | readCell addr =>
    simp only [hostStep, hostReadCell] at ht
    split at ht
    · rename_i hlt
      exact .inr (.inr (.inr (.inl ⟨addr, rfl, hlt, by simpa using ht.symm⟩)))
    · cases ht
  | readReg r =>
    exact .inr (.inr (.inr (.inr (.inl ⟨r, rfl, by simpa [hostStep, hostReadReg] using ht.symm⟩))))
  | reset => exact .inr (.inr (.inr (.inr (.inr ⟨rfl, by simpa [hostStep] using ht.symm⟩))))

end Sys2Proof.Machine
end

