-- ==== Sys2Proof/Laws/PerInstr.lean ====
section
/-! SUPPORT. Statements about every command as syntax, one lemma per constructor. -/

namespace Sys2Proof.Laws.OpcodeField

/-- The top byte of a command's word is its code (30_encoding.md R70, R72). -/
def Statement (i : Instr) : Prop := cmdOp (encode i) = opcodeOf i

theorem point (color : Color) (a0 a1 a2 a3 : Word) : Statement (.point color a0 a1 a2 a3) :=
  cmdOp_packCommand ..

theorem line (color : Color) (a0 a1 a2 a3 : Word) : Statement (.line color a0 a1 a2 a3) :=
  cmdOp_packCommand ..

theorem rect (color : Color) (a0 a1 a2 a3 : Word) : Statement (.rect color a0 a1 a2 a3) :=
  cmdOp_packCommand ..

end Sys2Proof.Laws.OpcodeField
end

