-- ==== Sys2Proof/Laws/Step.lean ====
section
/-! SUPPORT. Everything a step can do: inversion of the accept step, of the unit's step and of the
machine's step. -/

namespace Sys2Proof.Machine

/-- The accept step always has a next state: a command's start, or the fault. -/
theorem acceptStep_cases (cmd : Command) (s : State) :
    (cmdOp cmd = opPoint ∧ acceptStep cmd s =
      execPoint (cmdColor cmd) (cmdA0 cmd) (cmdA1 cmd) (cmdA2 cmd) (cmdA3 cmd) (clearOffer s)) ∨
    (cmdOp cmd = opLine ∧ acceptStep cmd s =
      execLine (cmdColor cmd) (cmdA0 cmd) (cmdA1 cmd) (cmdA2 cmd) (cmdA3 cmd) (clearOffer s)) ∨
    (cmdOp cmd = opRect ∧ acceptStep cmd s =
      execRect (cmdColor cmd) (cmdA0 cmd) (cmdA1 cmd) (cmdA2 cmd) (cmdA3 cmd) (clearOffer s)) ∨
    (cmdOp cmd ≠ opPoint ∧ cmdOp cmd ≠ opLine ∧ cmdOp cmd ≠ opRect ∧
      acceptStep cmd s = .next (acceptIllegal (cmdOp cmd) cmd (clearOffer s))) := by
  unfold acceptStep
  obtain ⟨h, hd⟩ | ⟨h, hd⟩ | ⟨h, hd⟩ | ⟨h1, h2, h3, hd⟩ := decode_cases cmd <;> rw [hd]
  · exact .inl ⟨h, rfl⟩
  · exact .inr (.inl ⟨h, rfl⟩)
  · exact .inr (.inr (.inl ⟨h, rfl⟩))
  · exact .inr (.inr (.inr ⟨h1, h2, h3, rfl⟩))

section AfterTurn

variable (s : State)

@[simp] theorem afterTurn_w : (Safety.afterTurn s).w = s.w := rfl
@[simp] theorem afterTurn_h : (Safety.afterTurn s).h = s.h := rfl
@[simp] theorem afterTurn_op : (Safety.afterTurn s).op = s.op := rfl
@[simp] theorem afterTurn_color : (Safety.afterTurn s).color = s.color := rfl
@[simp] theorem afterTurn_a0 : (Safety.afterTurn s).a0 = s.a0 := rfl
@[simp] theorem afterTurn_a1 : (Safety.afterTurn s).a1 = s.a1 := rfl
@[simp] theorem afterTurn_a2 : (Safety.afterTurn s).a2 = s.a2 := rfl
@[simp] theorem afterTurn_a3 : (Safety.afterTurn s).a3 = s.a3 := rfl
@[simp] theorem afterTurn_cx : (Safety.afterTurn s).cx = s.cx := rfl
@[simp] theorem afterTurn_cy : (Safety.afterTurn s).cy = s.cy := rfl
@[simp] theorem afterTurn_err : (Safety.afterTurn s).err = s.err := rfl
@[simp] theorem afterTurn_phase : (Safety.afterTurn s).phase = s.phase := rfl
@[simp] theorem afterTurn_faultOp : (Safety.afterTurn s).faultOp = s.faultOp := rfl
@[simp] theorem afterTurn_surf : (Safety.afterTurn s).surf = s.surf := rfl
@[simp] theorem afterTurn_offer : (Safety.afterTurn s).offer = s.offer := rfl
@[simp] theorem afterTurn_observed : (Safety.afterTurn s).observed = s.observed := rfl
@[simp] theorem afterTurn_resetCount : (Safety.afterTurn s).resetCount = s.resetCount := rfl
@[simp] theorem afterTurn_turns : (Safety.afterTurn s).turns = s.turns.tail := rfl

end AfterTurn

/-- A next state of the accept step, the latches written in one form for every code. -/
theorem acceptStep_next {cmd : Command} {s t : State} (ht : acceptStep cmd s = .next t) :
    ∃ u, u = latch (cmdOp cmd) (cmdColor cmd) (cmdA0 cmd) (cmdA1 cmd) (cmdA2 cmd) (cmdA3 cmd)
        (clearOffer s) ∧
      ((cmdOp cmd = opPoint ∧
          t = setPhase .idle (plot (cmdA0 cmd).toInt (cmdA1 cmd).toInt u)) ∨
        (cmdOp cmd = opLine ∧ t = startLine u) ∨
        (cmdOp cmd = opRect ∧ t = startRect u) ∨
        (cmdOp cmd ≠ opPoint ∧ cmdOp cmd ≠ opLine ∧ cmdOp cmd ≠ opRect ∧
          t = raiseIllegalCommand (cmdOp cmd) u)) := by
  refine ⟨_, rfl, ?_⟩
  obtain ⟨h, hd⟩ | ⟨h, hd⟩ | ⟨h, hd⟩ | ⟨h1, h2, h3, hd⟩ := acceptStep_cases cmd s <;>
    rw [hd] at ht <;> cases ht
  · exact .inl ⟨h, by rw [h]⟩
  · exact .inr (.inl ⟨h, by rw [h]⟩)
  · exact .inr (.inr (.inl ⟨h, by rw [h]⟩))
  · exact .inr (.inr (.inr ⟨h1, h2, h3, rfl⟩))

/-- The unit's step by `PHASE`. -/
theorem unitStep_cases (s : State) :
    (s.phase = .idle ∧ s.offer = none ∧ unitStep s = .refused .noCommandOffered) ∨
    (∃ cmd, s.phase = .idle ∧ s.offer = some cmd ∧ unitStep s = acceptStep cmd s) ∨
    (s.phase = .rect ∧ unitStep s = rectRun s) ∨
    (s.phase = .line ∧ unitStep s = lineRun s) ∨
    (s.phase = .fault ∧ unitStep s = .fault (.illegalCommand s.faultOp)) := by
  unfold unitStep
  cases hp : s.phase
  · cases ho : s.offer
    · exact .inl ⟨rfl, rfl, rfl⟩
    · exact .inr (.inl ⟨_, rfl, rfl, rfl⟩)
  · exact .inr (.inr (.inl ⟨rfl, rfl⟩))
  · exact .inr (.inr (.inr (.inl ⟨rfl, rfl⟩)))
  · exact .inr (.inr (.inr (.inr ⟨rfl, rfl⟩)))

/-- A next state of the unit's step: an accepted command, a taken fault, or a run step. -/
theorem unitStep_next {s t : State} (ht : unitStep s = .next t) :
    (∃ cmd, s.phase = .idle ∧ s.offer = some cmd ∧ acceptStep cmd s = .next t) ∨
    (s.phase = .rect ∧ onSurface s s.cx.toInt s.cy.toInt = true ∧
      t = rectAdvance (setPixel s.cx.toInt s.cy.toInt s.color s)) ∨
    (s.phase = .line ∧ t = lineAdvance (plot s.cx.toInt s.cy.toInt s)) := by
  obtain ⟨-, -, h⟩ | ⟨cmd, hp, ho, h⟩ | ⟨hp, h⟩ | ⟨hp, h⟩ | ⟨-, h⟩ := unitStep_cases s <;>
    rw [h] at ht
  · cases ht
  · exact .inl ⟨cmd, hp, ho, ht⟩
  · obtain ⟨hs, hr⟩ | ⟨-, hr⟩ := rectRun_cases s <;> rw [hr] at ht
    · exact .inr (.inl ⟨hp, hs, by simpa using ht.symm⟩)
    · cases ht
  · exact .inr (.inr ⟨hp, by simpa [lineRun] using ht.symm⟩)
  · cases ht

/-- A turn of the unit: its step, or the turn passes. -/
theorem unitTurn_cases (s : State) :
    (unitEnabled s = true ∧ unitTurn s = unitStep s) ∨
    (unitEnabled s = false ∧ unitTurn s = .next s) := by
  unfold unitTurn
  cases unitEnabled s <;> simp

/-- Where the unit has an enabled step. -/
theorem unitEnabled_iff (s : State) :
    unitEnabled s = true ↔
      (s.phase = .idle ∧ s.offer.isSome = true) ∨ s.phase = .rect ∨ s.phase = .line := by
  unfold unitEnabled
  cases s.phase <;> simp

/-- A next state of the machine's step: the unit's step, a passed turn, or a host step. -/
theorem step_next {s t : State} (ht : step s = .next t) :
    (Safety.unitToMove s ∧ unitStep (Safety.afterTurn s) = .next t) ∨
    (∃ rest, s.turns = .unit :: rest ∧ unitEnabled s = false ∧ t = setTurns rest s) ∨
    (∃ h rest, s.turns = .host h :: rest ∧ hostStep h (setTurns rest s) = .next t) := by
  unfold step at ht
  cases hs : s.turns with
  | nil =>
    rw [hs] at ht
    have : Safety.afterTurn s = s := by
      cases s; simp_all [Safety.afterTurn, setTurns]
    exact .inl ⟨.inl hs, this.symm ▸ ht⟩
  | cons a rest =>
    rw [hs] at ht
    cases a with
    | unit =>
      have hr : Safety.afterTurn s = setTurns rest s := by simp [Safety.afterTurn, hs]
      obtain ⟨-, h⟩ | ⟨he, h⟩ := unitTurn_cases (setTurns rest s)
      · exact .inl ⟨.inr ⟨rest, hs⟩, by rw [hr, ← h]; exact ht⟩
      · simp only [h] at ht
        exact .inr (.inl ⟨rest, rfl, he, by simpa using ht.symm⟩)
    | host h => exact .inr (.inr ⟨h, rest, rfl, ht⟩)

/-- A step at the unit's turn, when the unit has an enabled step, is the unit's step. -/
theorem step_of_unitToMove {s : State} (hm : Safety.unitToMove s) (he : unitEnabled s = true) :
    step s = unitStep (Safety.afterTurn s) := by
  have hu : unitEnabled (Safety.afterTurn s) = true := he
  obtain hs | ⟨rest, hs⟩ := hm
  · have : Safety.afterTurn s = s := by
      cases s; simp_all [Safety.afterTurn, setTurns]
    rw [this]; simp [step, hs]
  · obtain ⟨-, h⟩ | ⟨h, -⟩ := unitTurn_cases (Safety.afterTurn s)
    · rw [← h]; simp [step, hs, Safety.afterTurn]
    · rw [hu] at h; cases h

/-- A step that accepts the offered word. -/
theorem step_accepts {s : State} {cmd : Command} (hm : Safety.unitToMove s)
    (hp : s.phase = .idle) (ho : s.offer = some cmd) :
    step s = acceptStep cmd (Safety.afterTurn s) := by
  rw [step_of_unitToMove hm ((unitEnabled_iff s).2 (.inl ⟨hp, by simp [ho]⟩))]
  simp [unitStep, Safety.afterTurn, hp, ho]

/-! Runs. -/

theorem runFor_zero (s : State) : Safety.runFor 0 s = .next s := rfl

theorem runFor_of_step {n : Nat} {s t u : State} (h : step s = .next t)
    (h' : Safety.runFor n t = .next u) : Safety.runFor (n + 1) s = .next u := by
  simp [Safety.runFor, h, h']

/-- A run that reached `t` goes on with the step of `t`. -/
theorem runFor_then_step {n : Nat} {s t u : State} (h : Safety.runFor n s = .next t)
    (h' : step t = .next u) : Safety.runFor (n + 1) s = .next u := by
  induction n generalizing s with
  | zero =>
    simp only [Safety.runFor, Host.Outcome.next.injEq] at h
    simp [Safety.runFor, h, h']
  | succ n ih =>
    rw [Safety.runFor] at h ⊢
    cases hs : step s with
    | next v => rw [hs] at h; exact ih h
    | fault r => rw [hs] at h; cases h
    | refused r => rw [hs] at h; cases h

/-- One step of the host's own run, for any core. -/
theorem core_run_succ (M : Host.Core) (n : Nat) (s : M.State) :
    (∀ t, M.step s = .next t → M.run (n + 1) s = M.run n t) ∧
    (∀ r, M.step s = .fault r → M.run (n + 1) s = .fault r) ∧
    (∀ r, M.step s = .refused r → M.run (n + 1) s = .refused r) := by
  refine ⟨fun t h => ?_, fun r h => ?_, fun r h => ?_⟩ <;> simp [Host.Core.run, h]

/-- The model's runs are the runs of the host's `Core`. -/
theorem runFor_eq_core_run (n : Nat) (s : State) :
    Safety.runFor n s = Host.Core.run Sys2Proof.core n s := by
  induction n generalizing s with
  | zero => rfl
  | succ n ih =>
    obtain ⟨h1, h2, h3⟩ := core_run_succ Sys2Proof.core n s
    rw [Safety.runFor]
    cases hs : step s with
    | next t => exact (ih t).trans (h1 t hs).symm
    | fault r => exact (h2 r hs).symm
    | refused r => exact (h3 r hs).symm

end Sys2Proof.Machine
end

