-- ==== Sys2Proof/Tests/Slice0.lean ====
section
/-! SUPPORT. Tests. Expected values are those of the spec's vectors (95_test_vectors.md), worked
examples and tables, or worked out by hand from its rules; the witnesses at the end show, for every
statement with hypotheses, a concrete state and operands that meet all of them together. -/

namespace Sys2Proof.Tests

open Sys2Proof.Machine Sys2Proof.Safety

/-! ## The words of the spec's vectors -/

/-- V-P1, `point 3, 4, rgb(255,0,0)`. -/
def wordP1 : Command := 0x0C0000FF00000003000000040000000000000000
/-- V-P2, `point -1, 0, rgb(1,2,3)`. -/
def wordP2 : Command := 0x0C030201FFFFFFFF000000000000000000000000
/-- V-P3, `point 10, 9, rgb(1,2,3)`: x = W. -/
def wordP3 : Command := 0x0C0302010000000A000000090000000000000000
/-- V-P4, `point 9, 9, rgb(1,2,3)` with junk in the unused fields. -/
def wordP4 : Command := 0x0C03020100000009000000097FFFFFFFFFFFFFFF
/-- V-L2, `line -2, -1, 7, 2, rgb(0,255,0)`. -/
def wordL2 : Command := 0x0D00FF00FFFFFFFEFFFFFFFF0000000700000002
/-- V-L3, `line 3, 3, 3, 3, rgb(0,255,0)`. -/
def wordL3 : Command := 0x0D00FF0000000003000000030000000300000003
/-- V-L6, `line 0, 0, 4, 2, rgb(0,255,0)`. -/
def wordL6 : Command := 0x0D00FF0000000000000000000000000400000002
/-- V-R2, `rect 20, 20, 5, 5, rgb(0,0,255)`. -/
def wordR2 : Command := 0x0EFF000000000014000000140000000500000005
/-- V-R3, `rect -3, -2, 5, 4, rgb(9,9,9)`. -/
def wordR3 : Command := 0x0E090909FFFFFFFDFFFFFFFE0000000500000004
/-- V-O1, `rect 1, 0, 2, 2, rgb(0,255,0)`. -/
def wordO1 : Command := 0x0E00FF0000000001000000000000000200000002
/-- V-X2, code 0x11. -/
def wordX2 : Command := 0x1103020100000001000000010000000100000001
/-- V-X3, code 0x0B. -/
def wordX3 : Command := 0x0B030201000000FF000000000000000000000000
/-- V-X4, code 0x0F. -/
def wordX4 : Command := 0x0F03020100000000000000000000000000000000
/-- Code 0x0A, not in the spec's vectors. -/
def word0A : Command := 0x0A00000000000000000000000000000000000000

/-! ## Small states -/

/-- The reset state at `w` by `h` with a word on offer. -/
def offering (w h : BitVec 16) (cmd : Command) : State :=
  { State.resetWith w h with offer := some cmd }

/-- The same with the given turns listed. -/
def withTurns (turns : List Turn) (s : State) : State := { s with turns := turns }

/-- V-O1 on 4 by 2 after its accept step, the walker moved to the given cell. -/
def runningO1 (cx cy : Word) : State :=
  { State.resetWith 4 2 with
    op := 0x0E, color := 0x00FF00, a0 := 1, a1 := 0, a2 := 2, a3 := 2, cx := cx, cy := cy
    phase := .rect }

/-- V-L2 on 5 by 5 in its run, the walker at the given values. -/
def runningL2 (cx cy : Word) (err : Int) : State :=
  { State.resetWith 5 5 with
    op := 0x0D, color := 0x00FF00, a0 := BitVec.ofInt 32 (-2), a1 := BitVec.ofInt 32 (-1)
    a2 := 7, a3 := 2, cx := cx, cy := cy, err := err, phase := .line }

/-- V-L6 on 5 by 5 in its run, the walker at the given values. -/
def runningL6 (cx cy : Word) (err : Int) : State :=
  { State.resetWith 5 5 with
    op := 0x0D, color := 0x00FF00, a0 := 0, a1 := 0, a2 := 4, a3 := 2
    cx := cx, cy := cy, err := err, phase := .line }

/-- The unit after V-X2 on 4 by 2. -/
def faulted : State :=
  { State.resetWith 4 2 with op := 0x11, faultOp := 0x11, phase := .fault }

/-! ## WellFormed: every check refuses a term out of its range (30_encoding.md R80) -/

theorem test_listing_in_range :
    (Listing.point (-2147483648) 2147483647 0 255 255).wellFormed = true ∧
    (Listing.line 2147483647 (-2147483648) 0 0 255 0 255).wellFormed = true ∧
    (Listing.rect 0 0 (-2147483648) 2147483647 255 255 0).wellFormed = true := by decide

theorem test_point_x_too_big : (Listing.point 2147483648 0 0 0 0).wellFormed = false := by decide
theorem test_point_x_too_small :
    (Listing.point (-2147483649) 0 0 0 0).wellFormed = false := by decide
theorem test_point_y_too_big : (Listing.point 0 2147483648 0 0 0).wellFormed = false := by decide
theorem test_point_red_too_big : (Listing.point 0 0 256 0 0).wellFormed = false := by decide
theorem test_point_green_too_big : (Listing.point 0 0 0 256 0).wellFormed = false := by decide
theorem test_point_blue_too_big : (Listing.point 0 0 0 0 256).wellFormed = false := by decide
theorem test_line_coordinates_too_big :
    (Listing.line 2147483648 0 0 0 0 0 0).wellFormed = false ∧
    (Listing.line 0 2147483648 0 0 0 0 0).wellFormed = false ∧
    (Listing.line 0 0 2147483648 0 0 0 0).wellFormed = false ∧
    (Listing.line 0 0 0 (-2147483649) 0 0 0).wellFormed = false := by decide
theorem test_line_channels_too_big :
    (Listing.line 0 0 0 0 256 0 0).wellFormed = false ∧
    (Listing.line 0 0 0 0 0 256 0).wellFormed = false ∧
    (Listing.line 0 0 0 0 0 0 256).wellFormed = false := by decide
theorem test_rect_coordinates_too_big :
    (Listing.rect 2147483648 0 0 0 0 0 0).wellFormed = false ∧
    (Listing.rect 0 (-2147483649) 0 0 0 0 0).wellFormed = false ∧
    (Listing.rect 0 0 2147483648 0 0 0 0).wellFormed = false ∧
    (Listing.rect 0 0 0 2147483648 0 0 0).wellFormed = false := by decide
theorem test_rect_channels_too_big :
    (Listing.rect 0 0 0 0 256 0 0).wellFormed = false ∧
    (Listing.rect 0 0 0 0 0 256 0).wellFormed = false ∧
    (Listing.rect 0 0 0 0 0 0 256).wellFormed = false := by decide

/-! ## Decode and encode, against the words of 95_test_vectors.md -/

theorem test_decode_point : decode wordP1 = .ok (.point (rgb 255 0 0) 3 4 0 0) := by decide
theorem test_decode_point_unused :
    decode wordP4 = .ok (.point (rgb 1 2 3) 9 9 0x7FFFFFFF 0xFFFFFFFF) := by decide
theorem test_decode_line :
    decode wordL2 =
      .ok (.line (rgb 0 255 0) (BitVec.ofInt 32 (-2)) (BitVec.ofInt 32 (-1)) 7 2) := by decide
theorem test_decode_rect :
    decode wordR3 =
      .ok (.rect (rgb 9 9 9) (BitVec.ofInt 32 (-3)) (BitVec.ofInt 32 (-2)) 5 4) := by decide
theorem test_decode_illegal :
    decode wordX3 = .error (.illegalOp 0x0B) ∧ decode wordX4 = .error (.illegalOp 0x0F) := by decide
theorem test_encode_listing_point :
    encode (Listing.point 3 4 255 0 0).assemble = wordP1 := by decide
theorem test_encode_listing_line :
    encode (Listing.line (-2) (-1) 7 2 0 255 0).assemble = wordL2 := by decide
theorem test_encode_listing_rect :
    encode (Listing.rect (-3) (-2) 5 4 9 9 9).assemble = wordR3 := by decide
theorem test_bytes_of_command :
    bytesOfCommand wordP4 =
      [0x0C, 0x03, 0x02, 0x01, 0, 0, 0, 9, 0, 0, 0, 9, 0x7F, 0xFF, 0xFF, 0xFF,
        0xFF, 0xFF, 0xFF, 0xFF] := by decide
theorem test_decode_bytes :
    decodeBytes [0x0C, 0, 0, 0xFF, 0, 0, 0, 3, 0, 0, 0, 4, 0, 0, 0, 0, 0, 0, 0, 0] =
      .ok (.point (rgb 255 0 0) 3 4 0 0) ∧
    decodeBytes [0x0C, 0, 0, 0xFF] = .error (.notTwentyBytes 4) := by decide
theorem test_decode_table_word :
    decodeTableWord 160 0x0E00FF0000000001000000000000000200000002 =
      some (.rect (rgb 0 255 0) 1 0 2 2) ∧
    decodeTableWord 160 0x1100000000000000000000000000000000000000 = none := by decide
/-- The rows of R75 do not overlap, and each row's match word is the command of its name. -/
theorem test_opcode_table :
    (opcodeTable.Pairwise fun p q => p.matchBits &&& q.maskBits ≠ q.matchBits) ∧
    (opcodeTable.map fun r => (decode r.matchBits).toOption.map mnemonicOf) =
      [some "POINT", some "LINE", some "RECT"] ∧
    opcodeTable.map (·.mnemonic) = ["POINT", "LINE", "RECT"] := by decide

/-! ## One step of each command -/

/-- V-P1: `SURF[43] <- FF0000FF` on 10 by 10, one step, PHASE IDLE. -/
theorem test_point_draws :
    ∃ t, step (offering 10 10 wordP1) = .next t ∧ t.surf = [(43, 0xFF0000FF)] ∧
      t.phase = .idle ∧ t.offer = none := ⟨_, rfl, by decide⟩

/-- V-P3: x = W draws nothing. -/
theorem test_point_off_surface :
    ∃ t, step (offering 10 10 wordP3) = .next t ∧ t.surf = [] ∧ t.phase = .idle :=
  ⟨_, rfl, by decide⟩

/-- V-O1: after the accept step PHASE = RECT, (CX, CY) = (1, 0), no cell written. -/
theorem test_rect_accept :
    ∃ t, step (offering 4 2 wordO1) = .next t ∧ t.phase = .rect ∧ t.cx = 1 ∧ t.cy = 0 ∧
      t.surf = [] := ⟨_, rfl, by decide⟩

/-- V-O1: run step 2 writes cell 2 and wraps to (1, 1). -/
theorem test_rect_wraps_to_next_row :
    ∃ t, step (runningO1 2 0) = .next t ∧ t.surf = [(2, 0xFF00FF00)] ∧ t.cx = 1 ∧ t.cy = 1 ∧
      t.phase = .rect := ⟨_, rfl, by decide⟩

/-- V-L6: the accept step leaves (0, 0, 2) and writes no cell. -/
theorem test_line_accept :
    ∃ t, step (offering 5 5 wordL6) = .next t ∧ t.phase = .line ∧ t.cx = 0 ∧ t.cy = 0 ∧
      t.err = 2 ∧ t.surf = [] := ⟨_, rfl, by decide⟩

/-- V-L6: at (1, 1, 4) the run step writes cell 6 and moves to (2, 1, 2). -/
theorem test_line_run :
    ∃ t, step (runningL6 1 1 4) = .next t ∧ t.surf = [(6, 0xFF00FF00)] ∧ t.cx = 2 ∧ t.cy = 1 ∧
      t.err = 2 ∧ t.phase = .line := ⟨_, rfl, by decide⟩

/-- V-X2: FAULT, `FAULT_OP = 0x11`, surface unchanged. -/
theorem test_illegal_code :
    ∃ t, step (offering 10 10 wordX2) = .next t ∧ t.phase = .fault ∧ t.faultOp = 0x11 ∧
      t.surf = [] ∧ causeCode t = 1 := ⟨_, rfl, by decide⟩

/-- The visited points and the `ERR` values of V-L9's trace (DX = 8, DY = -2). -/
theorem test_walk_trace :
    (List.range 9).map (walkAt ⟨6, 1, -2, 3⟩) =
      [⟨6, 1, 6⟩, ⟨5, 1, 4⟩, ⟨4, 2, 10⟩, ⟨3, 2, 8⟩, ⟨2, 2, 6⟩, ⟨1, 2, 4⟩, ⟨0, 3, 10⟩, ⟨-1, 3, 8⟩,
        ⟨-2, 3, 6⟩] := by decide

/-- V-L6 and V-L7: ties are rounded in the direction of travel, so the reverse line visits other
points (43_line.md R137). -/
theorem test_reversed_line :
    lineVisits ⟨0, 0, 4, 2⟩ = [(0, 0), (1, 1), (2, 1), (3, 2), (4, 2)] ∧
    lineVisits ⟨4, 2, 0, 0⟩ = [(4, 2), (3, 1), (2, 1), (1, 0), (0, 0)] := by decide

/-- V-L8, y-major: the closed form gives the visited points of the vector. -/
theorem test_closed_form :
    (List.range 6).map (closedVisit ⟨0, 0, 2, 5⟩) =
      [(0, 0), (0, 1), (1, 2), (1, 3), (2, 4), (2, 5)] := by decide

/-- V-R10: the clipped edges and the drawn points. -/
theorem test_rect_draws :
    draws 10 10 (.rect 0x090909 8 (BitVec.ofInt 32 (-1)) 5 3) =
      [(8, 0), (9, 0), (8, 1), (9, 1)] := by decide

/-- The word that tells exact arithmetic from 32-bit wrap (V-R6): R = 10, 25 cells. -/
theorem test_rect_sum_is_exact :
    clipRect 10 10 5 0 2147483647 5 = ⟨5, 10, 0, 5⟩ ∧
    runStepCount 10 10 (.rect 0x090909 5 0 0x7FFFFFFF 5) = 25 := by decide

/-- `withFetchWord` on the reset state runs the word as the very next instruction (V-P1). -/
theorem test_fetch_word :
    ∃ t, step (State.reset.withFetchWord 160 0x0C0000FF00000003000000040000000000000000) = .next t ∧
      t.surf = [(43, 0xFF0000FF)] := ⟨_, rfl, by decide⟩

/-- 44_g1_binding.md R152, at the default narrowing: 300 narrows to 44, and `CR` takes the first
argument (95_test_vectors.md, program 5). -/
theorem test_host_color : hostColor colorNarrowDefault 300 1 0 = rgb 44 1 0 := by decide

/-- 20_memory.md R55: a cell listed as bytes, most significant byte first. -/
theorem test_surface_bytes :
    Memory.toBytes [(43, 0xFF0000FF)] = [(172, 0xFF), (173, 0), (174, 0), (175, 0xFF)] := by decide

/-! ## Witnesses: the hypotheses of each statement are met together -/

theorem witness_EncodeAndDecodeAgree : decode wordP1 = .ok (.point 0x0000FF 3 4 0 0) := by decide

theorem witness_DecodeIsMaskAndMatch :
    wordP4 &&& 0xFF00000000000000000000000000000000000000#160 =
      0x0C00000000000000000000000000000000000000#160 ∧
    wordL2 &&& 0xFF00000000000000000000000000000000000000#160 =
      0x0D00000000000000000000000000000000000000#160 ∧
    wordR3 &&& 0xFF00000000000000000000000000000000000000#160 =
      0x0E00000000000000000000000000000000000000#160 := by decide

theorem witness_EveryOtherCodeIsIllegal :
    (wordX3.extractLsb' 152 8).toNat ≤ 0x0B ∧ 0x0F ≤ (wordX4.extractLsb' 152 8).toNat ∧
    ¬((wordP1.extractLsb' 152 8).toNat ≤ 0x0B ∨ 0x0F ≤ (wordP1.extractLsb' 152 8).toNat) ∧
    ¬((wordR3.extractLsb' 152 8).toNat ≤ 0x0B ∨ 0x0F ≤ (wordR3.extractLsb' 152 8).toNat) := by
  decide

theorem witness_ByteFormRoundTrip :
    (bytesOfCommand wordP4).length = 20 ∧ 19 < (bytesOfCommand wordP4).length ∧
    ([] : List Byte).length ≠ 20 := by decide

theorem witness_ListingAssemblesToItsFields :
    (Listing.point (-2147483648) 2147483647 0 255 255).wellFormed = true ∧
    (Listing.line 2147483647 (-2147483648) 0 0 255 0 255).wellFormed = true ∧
    (Listing.rect 0 0 (-2147483648) 2147483647 255 255 0).wellFormed = true := by decide

theorem witness_StepRunsTheOfferedCommand :
    (offering 10 10 wordP1).phase = .idle ∧ (offering 10 10 wordP1).offer = some wordP1 ∧
    decode wordP1 = .ok (.point 0x0000FF 3 4 0 0) ∧ (offering 10 10 wordP1).turns = [] ∧
    (withTurns [.unit] (offering 10 10 wordP1)).turns = .unit :: [] ∧
    decodeTableWord 160 0x0C0000FF00000003000000040000000000000000 =
      some (.point 0x0000FF 3 4 0 0) := by decide

/-- Both clauses, with the codes next to their bounds. -/
theorem witness_IllegalCodeRaisesIllegalCommand :
    unitToMove (offering 10 10 wordX3) ∧ (offering 10 10 wordX3).phase = .idle ∧
    (offering 10 10 wordX3).offer = some wordX3 ∧
    (wordX3.extractLsb' 152 8 ≠ 0x0C#8 ∧ wordX3.extractLsb' 152 8 ≠ 0x0D#8 ∧
      wordX3.extractLsb' 152 8 ≠ 0x0E#8) ∧
    (wordX4.extractLsb' 152 8 ≠ 0x0C#8 ∧ wordX4.extractLsb' 152 8 ≠ 0x0D#8 ∧
      wordX4.extractLsb' 152 8 ≠ 0x0E#8) ∧
    wordP1.extractLsb' 152 8 = 0x0C#8 ∧ wordR3.extractLsb' 152 8 = 0x0E#8 :=
  ⟨.inl rfl, by decide⟩

theorem witness_BusyUnitLeavesTheOfferAlone :
    unitToMove (runningO1 1 0) ∧ (runningO1 1 0).phase ≠ .idle ∧
    (∃ t, step (runningO1 1 0) = .next t) ∧
    unitToMove (runningL6 0 0 2) ∧ (runningL6 0 0 2).phase ≠ .idle ∧
    (∃ t, step (runningL6 0 0 2) = .next t) :=
  ⟨.inl rfl, by decide, ⟨_, rfl⟩, .inl rfl, by decide, ⟨_, rfl⟩⟩

theorem witness_DisabledUnitTakesNoStep :
    ((State.resetWith 4 2).turns = [] ∧ (State.resetWith 4 2).phase = .idle ∧
      (State.resetWith 4 2).offer = none) ∧
    (faulted.turns = [] ∧ faulted.phase = .fault) ∧
    ((withTurns [.unit] faulted).turns = .unit :: [] ∧ (withTurns [.unit] faulted).phase = .fault) ∧
    ((withTurns [.unit] (State.resetWith 4 2)).phase = .idle ∧
      (withTurns [.unit] (State.resetWith 4 2)).offer = none) := by decide

theorem faulted_ok : StateOk faulted :=
  ⟨List.Pairwise.nil, by decide, (fun h => by cases h), (fun h => by cases h),
    (fun _ => by unfold FaultOk; decide), by decide⟩

theorem witness_LegalCommandsRaiseNothing :
    (State.resetWith 10 10).phase = .idle ∧ StateOk faulted ∧
    step faulted = .fault (.illegalCommand 0x11) := ⟨rfl, faulted_ok, rfl⟩

theorem witness_OnlyAnIllegalCodeEntersFault :
    ∃ t, step (offering 10 10 wordX2) = .next t ∧ (offering 10 10 wordX2).phase ≠ .fault ∧
      t.phase = .fault := ⟨_, rfl, by decide⟩

theorem witness_LatchesChangeOnlyInAcceptAndReset :
    (∃ t, step (offering 10 10 wordP1) = .next t) ∧ (∃ t, step (runningO1 1 0) = .next t) ∧
    (∃ t, step (withTurns [.host .reset] (runningO1 1 0)) = .next t) :=
  ⟨⟨_, rfl⟩, ⟨_, rfl⟩, ⟨_, rfl⟩⟩

theorem witness_OfferStandsUntilTakenOrWithdrawn :
    (offering 4 2 wordP1).offer = some wordP1 ∧
    (∃ t, step (offering 4 2 wordP1) = .next t) ∧
    (∃ t, step (withTurns [.host .withdraw] (offering 4 2 wordP1)) = .next t) ∧
    (∃ t, step (withTurns [.host (.offer wordX2)] (offering 4 2 wordP1)) = .next t) ∧
    (∃ t, step (withTurns [.host .reset] (offering 4 2 wordP1)) = .next t) :=
  ⟨rfl, ⟨_, rfl⟩, ⟨_, rfl⟩, ⟨_, rfl⟩, ⟨_, rfl⟩⟩

theorem witness_SurfaceSizeNeverChanges : ∃ t, step (offering 4 2 wordO1) = .next t := ⟨_, rfl⟩

/-- The last cell, the first column off, and a negative coordinate. -/
theorem witness_PointDrawsItsPixelAndFinishes :
    (State.resetWith 10 10).phase = .idle ∧
    (0 ≤ (9 : Word).toInt ∧ (9 : Word).toInt < (State.resetWith 10 10).w.toNat ∧
      0 ≤ (9 : Word).toInt ∧ (9 : Word).toInt < (State.resetWith 10 10).h.toNat) ∧
    ¬((10 : Word).toInt < (State.resetWith 10 10).w.toNat) ∧
    ¬(0 ≤ (BitVec.ofInt 32 (-1)).toInt) := by decide

theorem witness_PointIgnoresUnusedFields : (offering 10 10 wordP4).phase = .idle := rfl

theorem witness_PointTwiceKeepsTheSecondColour : (State.resetWith 10 10).phase = .idle := rfl

/-- V-O1 (not empty), V-R2 and V-R4 (empty at `L = R`). -/
theorem witness_RectStartsAtTheClippedCorner :
    (State.resetWith 10 10).phase = .idle ∧
    clipOfOperands 10 10 1 0 2 2 = ⟨1, 3, 0, 2⟩ ∧ (1 : Int) < 3 ∧ (0 : Int) < 2 ∧
    clipOfOperands 10 10 20 20 5 5 = ⟨20, 10, 20, 10⟩ ∧ ¬((20 : Int) < 10 ∧ (20 : Int) < 10) ∧
    clipOfOperands 10 10 2 2 0 5 = ⟨2, 2, 2, 7⟩ ∧ ¬((2 : Int) < 2 ∧ (2 : Int) < 7) := by decide

/-- V-O1 in a row, at the end of its first row, and at its last cell. -/
theorem witness_RectRunStepWritesOneCellAndMovesOn :
    unitToMove (runningO1 1 0) ∧ (runningO1 1 0).phase = .rect ∧
    clipOf (runningO1 1 0) = ⟨1, 3, 0, 2⟩ ∧
    ((1 : Int) ≤ (runningO1 1 0).cx.toInt ∧ (runningO1 1 0).cx.toInt < 3 ∧
      (0 : Int) ≤ (runningO1 1 0).cy.toInt ∧ (runningO1 1 0).cy.toInt < 2 ∧
      (runningO1 1 0).cx.toInt + 1 < 3) ∧
    (¬(runningO1 2 0).cx.toInt + 1 < 3 ∧ (runningO1 2 0).cy.toInt + 1 < 2) ∧
    (¬(runningO1 2 1).cx.toInt + 1 < 3 ∧ ¬(runningO1 2 1).cy.toInt + 1 < 2) :=
  ⟨.inl rfl, by decide⟩

theorem witness_RectEdgesLieOnTheSurface :
    clipOf (runningO1 1 0) = ⟨1, 3, 0, 2⟩ ∧ clipNonEmpty (clipOf (runningO1 1 0)) = true :=
  by decide

theorem witness_RectPointsAreTheIntersection :
    ((0 : Int), (0 : Int)) ∈ draws 10 10 (.rect 0x090909 (BitVec.ofInt 32 (-3))
      (BitVec.ofInt 32 (-2)) 5 4) := by decide

/-- Each of the six ways, at its bound. -/
theorem witness_EmptyRectangleFinishesAtOnce :
    (State.resetWith 10 10).phase = .idle ∧
    (0 : Word).toInt ≤ 0 ∧ (BitVec.ofInt 32 (-2)).toInt ≤ 0 ∧
    ((State.resetWith 10 10).w.toNat : Int) ≤ (10 : Word).toInt ∧
    ((State.resetWith 10 10).h.toNat : Int) ≤ (10 : Word).toInt ∧
    (BitVec.ofInt 32 (-5)).toInt + (5 : Word).toInt ≤ 0 := by decide

theorem witness_RectCommandPaintsItsRectangle :
    (offering 4 2 wordO1).turns = [] ∧ (offering 4 2 wordO1).phase = .idle ∧
    (offering 4 2 wordO1).offer = some wordO1 ∧
    decode wordO1 = .ok (.rect 0x00FF00 1 0 2 2) ∧
    4 = (draws 4 2 (.rect 0x00FF00 1 0 2 2)).length := by decide

theorem witness_LineStartsAtItsFirstPoint : (State.resetWith 5 5).phase = .idle := rfl

theorem runningL6_ok (k : Nat) (cx cy : Word) (err : Int) (hk : k ≤ 4)
    (hw : (⟨cx.toInt, cy.toInt, err⟩ : Walker) = walkAt ⟨0, 0, 4, 2⟩ k) :
    LineOk (runningL6 cx cy err) := ⟨rfl, k, hk, hw⟩

theorem runningL2_ok : LineOk (runningL2 (BitVec.ofInt 32 (-2)) (BitVec.ofInt 32 (-1)) 6) :=
  ⟨rfl, 0, by decide, by decide⟩

/-- In bounds and moving, off the surface, and at the end point. -/
theorem witness_LineRunStepVisitsOnePoint :
    (unitToMove (runningL6 1 1 4) ∧ (runningL6 1 1 4).phase = .line ∧ LineOk (runningL6 1 1 4) ∧
      ¬((runningL6 1 1 4).cx = (runningL6 1 1 4).a2 ∧ (runningL6 1 1 4).cy = (runningL6 1 1 4).a3)) ∧
    (LineOk (runningL2 (BitVec.ofInt 32 (-2)) (BitVec.ofInt 32 (-1)) 6) ∧
      ¬(0 ≤ (BitVec.ofInt 32 (-2)).toInt)) ∧
    (LineOk (runningL6 4 2 2) ∧
      (runningL6 4 2 2).cx = (runningL6 4 2 2).a2 ∧ (runningL6 4 2 2).cy = (runningL6 4 2 2).a3) :=
  ⟨⟨.inl rfl, rfl, runningL6_ok 1 1 1 4 (by decide) (by decide), by decide⟩,
    ⟨runningL2_ok, by decide⟩, ⟨runningL6_ok 4 4 2 2 (by decide) (by decide), by decide⟩⟩

/-- Both ends of the range, on an x-major, a y-major and a zero-length line. -/
theorem witness_WalkEqualsClosedForm :
    0 ≤ lineN ⟨0, 0, 4, 2⟩ ∧ 4 ≤ lineN ⟨0, 0, 4, 2⟩ ∧ 5 ≤ lineN ⟨0, 0, 2, 5⟩ ∧
    0 ≤ lineN ⟨3, 3, 3, 3⟩ := by decide

theorem witness_WalkReachesTheEndAfterNSteps : 3 < lineN ⟨0, 0, 4, 2⟩ := by decide

theorem witness_WalkStepMovesTowardTheEnd :
    (3 < lineN ⟨0, 0, 4, 2⟩ ∧ |(2 : Int) - 0| ≤ |(4 : Int) - 0|) ∧
    (4 < lineN ⟨0, 0, 2, 5⟩ ∧ |(2 : Int) - 0| ≤ |(5 : Int) - 0|) := by decide

theorem witness_WalkStaysInItsBox : 4 ≤ lineN ⟨0, 0, 4, 2⟩ := by decide

/-- V-L3, V-L4, V-L5 and V-L10. -/
theorem witness_SpecialLinesVisitTheirPoints :
    ((⟨3, 3, 3, 3⟩ : Segment).x1 = (⟨3, 3, 3, 3⟩ : Segment).x2 ∧
      (⟨3, 3, 3, 3⟩ : Segment).y1 = (⟨3, 3, 3, 3⟩ : Segment).y2) ∧
    (⟨0, 2, 4, 2⟩ : Segment).y1 = (⟨0, 2, 4, 2⟩ : Segment).y2 ∧
    (⟨2, 4, 2, 0⟩ : Segment).x1 = (⟨2, 4, 2, 0⟩ : Segment).x2 ∧
    |(7 : Int) - -3| = |(-3 : Int) - 7| := by decide

theorem witness_LineCommandPaintsItsVisitedPoints :
    (offering 5 5 wordL2).turns = [] ∧ (offering 5 5 wordL2).phase = .idle ∧
    (offering 5 5 wordL2).offer = some wordL2 ∧
    decode wordL2 =
      .ok (.line 0x00FF00 (BitVec.ofInt 32 (-2)) (BitVec.ofInt 32 (-1)) 7 2) ∧
    10 ≤ lineN (segmentOfOperands (BitVec.ofInt 32 (-2)) (BitVec.ofInt 32 (-1)) 7 2) + 1 :=
  by decide

theorem witness_LineInsideTheSurfaceDrawsEveryPoint :
    inBounds 5 5 (0 : Word).toInt (0 : Word).toInt = true ∧
    inBounds 5 5 (4 : Word).toInt (4 : Word).toInt = true := by decide

theorem witness_SurfWriteChangesOneCell :
    7 < cellCount (State.resetWith 4 2).w (State.resetWith 4 2).h := by decide

theorem witness_PixelAddressInRangeAndInjective :
    (0 : Int) ≤ 65534 ∧ (65534 : Int) < (65535 : BitVec 16).toNat ∧
    pixelAddr 65535 65534 65534 = pixelAddr 65535 65534 65534 := by decide

theorem witness_WrittenCellLayout : onSurface (State.resetWith 10 10) 9 9 = true := by decide

theorem witness_HostReadsTheCellItAsksFor :
    (withTurns [.host (.readCell 7)] (State.resetWith 4 2)).turns = .host (.readCell 7) :: [] ∧
    7 < (4 : BitVec 16).toNat * (2 : BitVec 16).toNat ∧
    ¬ 8 < (4 : BitVec 16).toNat * (2 : BitVec 16).toNat ∧
    Memory.read? [(7, 5)] 7 = some 5 ∧ (State.resetWith 4 2).surf.read? 7 = none := by decide

theorem witness_HostWritesOnlyInIdle :
    (withTurns [.host (.writeCell 7 5)] (State.resetWith 4 2)).turns =
      .host (.writeCell 7 5) :: [] ∧
    7 < (State.resetWith 4 2).w.toNat * (State.resetWith 4 2).h.toNat ∧
    (State.resetWith 4 2).phase = .idle ∧
    (withTurns [.host (.writeCell 7 5)] faulted).turns = .host (.writeCell 7 5) :: [] ∧
    faulted.phase ≠ .idle := by decide

theorem witness_HostReadsTheNumberedRegisters :
    (withTurns [.host (.readReg .sr0)] faulted).turns = .host (.readReg .sr0) :: [] ∧
    (withTurns [.host (.readReg .cr1)] faulted).turns = .host (.readReg .cr1) :: [] := by decide

/-- An accepted POINT in its last cell, the last cell of a RECT, a LINE point on the surface. -/
theorem witness_UnitWritesAtMostOneCellPerStep :
    (unitToMove (offering 10 10 wordP4) ∧ (∃ t, step (offering 10 10 wordP4) = .next t) ∧
      (offering 10 10 wordP4).phase = .idle ∧ (offering 10 10 wordP4).offer = some wordP4 ∧
      wordP4.extractLsb' 152 8 = 0x0C#8 ∧
      inBounds 10 10 (cmdA0 wordP4).toInt (cmdA1 wordP4).toInt = true) ∧
    (unitToMove (runningO1 2 1) ∧ (∃ t, step (runningO1 2 1) = .next t) ∧
      (runningO1 2 1).phase = .rect) ∧
    (unitToMove (runningL6 1 1 4) ∧ (∃ t, step (runningL6 1 1 4) = .next t) ∧
      (runningL6 1 1 4).phase = .line ∧ inBounds 5 5 (1 : Word).toInt (1 : Word).toInt = true) :=
  ⟨⟨.inl rfl, ⟨_, rfl⟩, by decide⟩, ⟨.inl rfl, ⟨_, rfl⟩, rfl⟩, ⟨.inl rfl, ⟨_, rfl⟩, by decide⟩⟩

/-- The clause of no write: a POINT one column off the surface, and a LINE point off it. -/
theorem witness_UnitWritesNoCellElsewhere :
    (unitToMove (offering 10 10 wordP3) ∧ (∃ t, step (offering 10 10 wordP3) = .next t) ∧
      inBounds 10 10 (cmdA0 wordP3).toInt (cmdA1 wordP3).toInt = false) ∧
    (unitToMove (runningL2 (BitVec.ofInt 32 (-2)) (BitVec.ofInt 32 (-1)) 6) ∧
      (∃ t, step (runningL2 (BitVec.ofInt 32 (-2)) (BitVec.ofInt 32 (-1)) 6) = .next t) ∧
      inBounds 5 5 (BitVec.ofInt 32 (-2)).toInt (BitVec.ofInt 32 (-1)).toInt = false) :=
  ⟨⟨.inl rfl, ⟨_, rfl⟩, by decide⟩, ⟨.inl rfl, ⟨_, rfl⟩, by decide⟩⟩

theorem witness_UnitNeverReadsTheSurface :
    unitToMove (runningL6 1 1 4) ∧ ∃ t, step (runningL6 1 1 4) = .next t := ⟨.inl rfl, _, rfl⟩

/-- Two different IDLE states that look alike. -/
theorem witness_HiddenRegistersDoNotMatterInIdle :
    (offering 4 2 wordO1).phase = .idle ∧
    visible (offering 4 2 wordO1) = visible { offering 4 2 wordO1 with cx := 7, color := 1 } ∧
    offering 4 2 wordO1 ≠ { offering 4 2 wordO1 with cx := 7, color := 1 } := by decide

theorem witness_PaintDependsOnlyOnTheSet :
    Memory.wf [(0, 5), (3, 5)] ∧
    ∀ p : Int × Int, p ∈ [((0 : Int), (0 : Int)), (1, 0)] ↔ p ∈ [((1 : Int), (0 : Int)), (0, 0)] :=
  ⟨by decide, fun p => by simp [or_comm]⟩

theorem witness_EveryCommandPaintsItsPointsOnce :
    Memory.wf (offering 5 5 wordL6).surf ∧ (offering 5 5 wordL6).turns = [] ∧
    (offering 5 5 wordL6).phase = .idle ∧ (offering 5 5 wordL6).offer = some wordL6 ∧
    decode wordL6 = .ok (.line 0x00FF00 0 0 4 2) := by decide

theorem witness_EmptySurfaceDrawsNothing :
    (State.resetWith 0 5).w = 0 ∧ (State.resetWith 5 0).h = 0 ∧
    unitToMove (offering 0 5 wordP1) ∧ ∃ t, step (offering 0 5 wordP1) = .next t :=
  ⟨rfl, rfl, .inl rfl, _, rfl⟩

theorem witness_HostInstructionsOfferTheirCommands :
    (withTurns [.host (hostPoint 0x0000FF 3 4), .unit] (State.resetWith 10 10)).turns =
      .host (hostPoint 0x0000FF 3 4) :: .unit :: [] ∧
    (withTurns [.host (hostLine 1 0 0 4 2), .unit] (State.resetWith 10 10)).turns =
      .host (hostLine 1 0 0 4 2) :: .unit :: [] ∧
    (withTurns [.host (hostRect 1 1 0 2 2), .unit] (State.resetWith 10 10)).turns =
      .host (hostRect 1 1 0 2 2) :: .unit :: [] ∧
    (State.resetWith 10 10).phase = .idle := by decide

/-- The last cell, and the first column off the surface. -/
theorem witness_GetpReadsThePackedColour :
    (0 ≤ (9 : Word).toInt ∧ (9 : Word).toInt < (State.resetWith 10 10).w.toNat ∧
      0 ≤ (9 : Word).toInt ∧ (9 : Word).toInt < (State.resetWith 10 10).h.toNat) ∧
    (withTurns [.host (.readCell 99)] (State.resetWith 10 10)).turns = .host (.readCell 99) :: [] ∧
    (State.resetWith 10 10).phase = .idle ∧
    ¬((10 : Word).toInt < (State.resetWith 10 10).w.toNat) := by decide

/-- V-P1's colour through a narrowing that is not the default. -/
theorem witness_HostColourFillsTheChannels :
    ∃ cmd, hostPoint (hostColor (fun _ => 7) 255 0 0) 3 4 = .offer cmd := ⟨_, rfl⟩

theorem witness_FaultLastsUntilReset :
    faulted.phase = .fault ∧
    (∃ t, step (withTurns [.unit] faulted) = .next t) ∧
    (withTurns [.host .reset] faulted).turns = .host .reset :: [] ∧
    (withTurns [.host (.readCell 7)] faulted).turns = .host (.readCell 7) :: [] ∧
    7 < faulted.w.toNat * faulted.h.toNat :=
  ⟨rfl, ⟨_, rfl⟩, rfl, rfl, by decide⟩

theorem witness_ResetStepFromEveryState :
    (withTurns [.host .reset] (runningO1 1 0)).turns = .host .reset :: [] := rfl

theorem witness_ResetAbandonsARunningCommand :
    ((withTurns [.host .reset] (runningO1 1 0)).phase = .rect ∧
      (withTurns [.host .reset] (runningO1 1 0)).offer = none ∧
      (withTurns [.host .reset] (runningO1 1 0)).turns = [.host .reset]) ∧
    ((withTurns [.host .reset] (runningL6 0 0 2)).phase = .line ∧
      (withTurns [.host .reset] (runningL6 0 0 2)).offer = none) := by decide

theorem runningO1_ok : StateOk (runningO1 1 0) :=
  ⟨List.Pairwise.nil, by decide, (fun _ => by unfold RectOk; decide), (fun h => by cases h),
    (fun h => by cases h), by decide⟩

theorem runningL6_stateOk : StateOk (runningL6 1 1 4) :=
  ⟨List.Pairwise.nil, by decide, (fun h => by cases h),
    fun _ => runningL6_ok 1 1 1 4 (by decide) (by decide), (fun h => by cases h), by decide⟩

theorem witness_StepKeepsInvariant :
    StateOk (runningO1 1 0) ∧ ∃ t, step (runningO1 1 0) = .next t := ⟨runningO1_ok, _, rfl⟩

theorem witness_RunningCommandEnds :
    (StateOk (runningO1 1 0) ∧ (runningO1 1 0).turns = [] ∧ (runningO1 1 0).phase = .rect) ∧
    (StateOk (runningL6 1 1 4) ∧ (runningL6 1 1 4).turns = [] ∧ (runningL6 1 1 4).phase = .line) :=
  ⟨⟨runningO1_ok, rfl, rfl⟩, ⟨runningL6_stateOk, rfl, rfl⟩⟩

end Sys2Proof.Tests
end

section
/-! The state after reset (10_state.md R35): what a reader of each specified field finds there. -/

namespace Sys2Proof.Machine

variable (w h : BitVec 16)

@[simp] theorem resetWith_w : (State.resetWith w h).w = w := rfl
@[simp] theorem resetWith_h : (State.resetWith w h).h = h := rfl
@[simp] theorem resetWith_phase : (State.resetWith w h).phase = .idle := rfl
@[simp] theorem resetWith_faultOp : (State.resetWith w h).faultOp = 0 := rfl
@[simp] theorem resetWith_surf : (State.resetWith w h).surf = [] := rfl

/-- Right after reset no cell has a known value: the surface lists none. -/
theorem read_resetWith_surf (addr : Nat) : (State.resetWith w h).surf.read? addr = none :=
  read_none_of_lt (by simp)

end Sys2Proof.Machine

namespace Sys2Proof.Proofs

open Sys2Proof.Machine

/-- Settles O52, field by field from the rules of the reset state. -/
theorem stateAfterReset : Obligations.StateAfterReset := fun w h =>
  ⟨resetWith_w w h, resetWith_h w h, resetWith_phase w h, resetWith_faultOp w h,
    read_resetWith_surf w h⟩

end Sys2Proof.Proofs
end

section
/-! The address of a pixel (20_memory.md R53): division with remainder by `W` takes it apart. -/

namespace Sys2Proof.Machine

variable {w h : BitVec 16} {x y x' y' : Int}

/-- On the surface the address is the exact integer `y*W + x`: no negative value is cut off. -/
theorem pixelAddr_cast (hx : 0 ≤ x) (hy : 0 ≤ y) :
    (pixelAddr w x y : Int) = y * w.toNat + x :=
  Int.toNat_of_nonneg (by positivity)

theorem pixelAddr_lt_cellCount (hx : 0 ≤ x) (hxw : x < w.toNat) (hy : 0 ≤ y) (hyh : y < h.toNat) :
    pixelAddr w x y < cellCount w h := by
  have hrow : (y + 1) * w.toNat ≤ h.toNat * w.toNat :=
    Int.mul_le_mul_of_nonneg_right hyh (Int.natCast_nonneg _)
  zify [cellCount]
  rw [pixelAddr_cast hx hy]
  linarith

/-- The column is the remainder of the address by `W`. -/
theorem pixelAddr_emod (hx : 0 ≤ x) (hxw : x < w.toNat) (hy : 0 ≤ y) :
    (pixelAddr w x y : Int) % w.toNat = x := by
  rw [pixelAddr_cast hx hy, Int.mul_add_emod_self_right, Int.emod_eq_of_lt hx hxw]

/-- The row is the quotient of the address by `W`. -/
theorem pixelAddr_ediv (hx : 0 ≤ x) (hxw : x < w.toNat) (hy : 0 ≤ y) :
    (pixelAddr w x y : Int) / w.toNat = y := by
  rw [pixelAddr_cast hx hy, Int.mul_add_ediv_right _ _ (by omega),
    Int.ediv_eq_zero_of_lt hx hxw, add_zero]

theorem pixelAddr_injective (hx : 0 ≤ x) (hxw : x < w.toNat) (hy : 0 ≤ y) (hx' : 0 ≤ x')
    (hxw' : x' < w.toNat) (hy' : 0 ≤ y') (heq : pixelAddr w x y = pixelAddr w x' y') :
    x = x' ∧ y = y' := by
  constructor
  · rw [← pixelAddr_emod hx hxw hy, heq, pixelAddr_emod hx' hxw' hy']
  · rw [← pixelAddr_ediv hx hxw hy, heq, pixelAddr_ediv hx' hxw' hy']

end Sys2Proof.Machine

namespace Sys2Proof.Proofs

open Sys2Proof.Machine

/-- Settles O36: the address determines its row and its column as quotient and remainder by `W`. -/
theorem pixelAddressInRangeAndInjective : Obligations.PixelAddressInRangeAndInjective :=
  fun _ _ _ _ _ _ hx hxw hy hyh =>
    ⟨pixelAddr_cast hx hy, pixelAddr_lt_cellCount hx hxw hy hyh,
      fun hx' hxw' hy' _ heq => pixelAddr_injective hx hxw hy hx' hxw' hy' heq⟩

end Sys2Proof.Proofs
end

section
/-! A unit step does not read the surface (20_memory.md R59). What a step does to the surface is one
optional write, chosen without it; the rest of the step commutes with replacing the surface. -/

namespace Sys2Proof.Machine

/-- What a cell reads as after one write to the surface. -/
theorem read_write (m : Memory) (addr other : Nat) (v : Pixel) :
    (m.write addr v).read? other = if other = addr then some v else m.read? other := by
  split
  · subst other; exact read_write_same m addr v
  · rename_i hne; exact read_write_other m v hne

/-- One write to a surface, or none. -/
def Memory.writeOpt (m : Memory) : Option (Nat × Pixel) → Memory
  | none => m
  | some (addr, v) => m.write addr v

/-- The operation neither reads nor writes the surface. -/
def SurfaceFree (f : State → State) : Prop :=
  ∀ (s : State) (m : Memory), f { s with surf := m } = { f s with surf := m }

/-- The operation does not read the surface: whatever the surface, the same write, if any. -/
def WritesBlindly (f : State → State) : Prop :=
  ∀ s : State, ∃ write, ∀ m : Memory,
    f { s with surf := m } = { f s with surf := m.writeOpt write }

/-- From `s` the step goes to `t`, and with any other surface it makes the same write, if any, and
is the same in every other field. -/
def StepsBlindly (run : State → Host.Outcome State Fault Refusal) (s t : State) : Prop :=
  ∃ write, ∀ m : Memory, run { s with surf := m } = .next { t with surf := m.writeOpt write }

variable {f g : State → State}

theorem SurfaceFree.writesBlindly (hf : SurfaceFree f) : WritesBlindly f :=
  fun s => ⟨none, hf s⟩

theorem SurfaceFree.comp (hg : SurfaceFree g) (hf : SurfaceFree f) : SurfaceFree (g ∘ f) :=
  fun s m => (congrArg g (hf s m)).trans (hg (f s) m)

theorem SurfaceFree.comp_writesBlindly (hg : SurfaceFree g) (hf : WritesBlindly f) :
    WritesBlindly (g ∘ f) := fun s => by
  obtain ⟨write, hw⟩ := hf s
  exact ⟨write, fun m => (congrArg g (hw m)).trans (hg (f s) _)⟩

theorem WritesBlindly.comp_surfaceFree (hg : WritesBlindly g) (hf : SurfaceFree f) :
    WritesBlindly (g ∘ f) := fun s => by
  obtain ⟨write, hw⟩ := hg (f s)
  exact ⟨write, fun m => (congrArg g (hf s m)).trans (hw m)⟩

/-! The register writes. -/

theorem surfaceFree_afterTurn : SurfaceFree Safety.afterTurn := fun _ _ => rfl
theorem surfaceFree_setPhase (p : Phase) : SurfaceFree (setPhase p) := fun _ _ => rfl
theorem surfaceFree_startLine : SurfaceFree startLine := fun _ _ => rfl
theorem surfaceFree_latchTaken (op : OpCode) (color : Color) (a0 a1 a2 a3 : Word) :
    SurfaceFree fun s => latch op color a0 a1 a2 a3 (clearOffer s) := fun _ _ => rfl
theorem surfaceFree_acceptIllegal (op : OpCode) (cmd : Command) :
    SurfaceFree fun s => acceptIllegal op cmd (clearOffer s) := fun _ _ => rfl

/-- A choice between two operations by a test that does not read the surface. -/
theorem SurfaceFree.ite {c : State → Prop} [DecidablePred c]
    (hc : ∀ s m, c { s with surf := m } ↔ c s) (hf : SurfaceFree f) (hg : SurfaceFree g) :
    SurfaceFree fun s => if c s then f s else g s := fun s m => by
  simp only [hc s m, hf s m, hg s m]
  split <;> rfl

theorem surfaceFree_startRect : SurfaceFree startRect :=
  .ite (fun _ _ => Iff.rfl) (fun _ _ => rfl) (surfaceFree_setPhase .idle)

theorem surfaceFree_lineAdvance : SurfaceFree lineAdvance :=
  .ite (fun _ _ => Iff.rfl) (surfaceFree_setPhase .idle) (fun _ _ => rfl)

theorem surfaceFree_rectAdvance : SurfaceFree rectAdvance :=
  .ite (fun _ _ => Iff.rfl) (fun _ _ => rfl)
    (.ite (fun _ _ => Iff.rfl) (fun _ _ => rfl) (surfaceFree_setPhase .idle))

/-! The writes: each computes its address and its value from the registers. -/

theorem writesBlindly_setPixel : WritesBlindly fun s => setPixel s.cx.toInt s.cy.toInt s.color s :=
  fun s => ⟨some (pixelAddr s.w s.cx.toInt s.cy.toInt, pixelValue s.color), fun _ => rfl⟩

/-- Plotting on a replaced surface tests the same bounds and writes the same value. -/
theorem writesBlindly_plot (x y : Int) : WritesBlindly (plot x y) := fun s => by
  cases hon : onSurface s x y with
  | true =>
    refine ⟨some (pixelAddr s.w x y, pixelValue s.color), fun m => ?_⟩
    have hon' : onSurface { s with surf := m } x y = true := hon
    simp only [plot, hon, hon', if_true]
    rfl
  | false =>
    refine ⟨none, fun m => ?_⟩
    have hon' : onSurface { s with surf := m } x y = false := hon
    simp only [plot, hon, hon', Bool.false_eq_true, if_false]
    rfl

theorem writesBlindly_plotPosition : WritesBlindly fun s => plot s.cx.toInt s.cy.toInt s :=
  fun s => writesBlindly_plot s.cx.toInt s.cy.toInt s

/-! The steps of the unit. -/

/-- The accept step of any word: one operation on the state, which does not read the surface. -/
theorem acceptStep_writesBlindly (cmd : Command) :
    ∃ f, WritesBlindly f ∧ ∀ s, acceptStep cmd s = .next (f s) := by
  unfold acceptStep
  obtain ⟨-, hd⟩ | ⟨-, hd⟩ | ⟨-, hd⟩ | ⟨-, -, -, hd⟩ := decode_cases cmd <;> rw [hd]
  · exact ⟨_, (surfaceFree_setPhase .idle).comp_writesBlindly
      ((writesBlindly_plot _ _).comp_surfaceFree (surfaceFree_latchTaken _ _ _ _ _ _)),
      fun _ => rfl⟩
  · exact ⟨_, (surfaceFree_startLine.comp (surfaceFree_latchTaken _ _ _ _ _ _)).writesBlindly,
      fun _ => rfl⟩
  · exact ⟨_, (surfaceFree_startRect.comp (surfaceFree_latchTaken _ _ _ _ _ _)).writesBlindly,
      fun _ => rfl⟩
  · exact ⟨_, (surfaceFree_acceptIllegal _ cmd).writesBlindly, fun _ => rfl⟩

/-- A step that is one such operation on every surface. -/
theorem WritesBlindly.stepsBlindly {run : State → Host.Outcome State Fault Refusal} {s : State}
    (hf : WritesBlindly f) (hrun : ∀ m : Memory, run { s with surf := m } =
      .next (f { s with surf := m })) : StepsBlindly run s (f s) := by
  obtain ⟨write, hw⟩ := hf s
  exact ⟨write, fun m => by rw [hrun m, hw m]⟩

theorem unitStep_stepsBlindly {s t : State} (ht : unitStep s = .next t) :
    StepsBlindly unitStep s t := by
  obtain ⟨cmd, hp, ho, ha⟩ | ⟨hp, hon, rfl⟩ | ⟨hp, rfl⟩ := unitStep_next ht
  · obtain ⟨f, hf, hacc⟩ := acceptStep_writesBlindly cmd
    obtain rfl : f s = t := by simpa [hacc] using ha
    exact hf.stepsBlindly fun m => by simp only [unitStep, hp, ho, hacc]
  · exact (surfaceFree_rectAdvance.comp_writesBlindly writesBlindly_setPixel).stepsBlindly
      fun m => by
        simp only [unitStep, hp]
        exact if_pos hon
  · exact (surfaceFree_lineAdvance.comp_writesBlindly writesBlindly_plotPosition).stepsBlindly
      fun m => by simp only [unitStep, hp]; rfl

/-- Where the unit's step has a next state, it is enabled. -/
theorem unitEnabled_of_unitStep_next {s t : State} (ht : unitStep s = .next t) :
    unitEnabled s = true := by
  obtain ⟨cmd, hp, ho, -⟩ | ⟨hp, -⟩ | ⟨hp, -⟩ := unitStep_next ht <;> simp [unitEnabled, *]

/-- A turn of a unit without an enabled step passes. -/
theorem step_of_passedTurn {s : State} {rest : List Turn} (hs : s.turns = .unit :: rest)
    (he : unitEnabled s = false) : step s = .next (setTurns rest s) := by
  have he' : unitEnabled (setTurns rest s) = false := he
  simp [step, hs, unitTurn, he']

/-- The machine's step at the unit's turn: the unit's step, or the turn passes. -/
theorem step_stepsBlindly {s t : State} (hm : Safety.unitToMove s) (ht : step s = .next t) :
    StepsBlindly step s t := by
  obtain ⟨-, hu⟩ | ⟨rest, hs, he, rfl⟩ | ⟨h, rest, hs, -⟩ := step_next ht
  · obtain ⟨write, hw⟩ := unitStep_stepsBlindly hu
    have he : unitEnabled s = true := unitEnabled_of_unitStep_next (s := Safety.afterTurn s) hu
    exact ⟨write, fun m => by
      rw [step_of_unitToMove (s := { s with surf := m }) hm he, surfaceFree_afterTurn s m, hw m]⟩
  · exact ⟨none, fun m => step_of_passedTurn (s := { s with surf := m }) hs he⟩
  · obtain hn | ⟨_, hn⟩ := hm <;> simp [hs] at hn

/-- On its own surface, the step has made the write of `StepsBlindly`. -/
theorem surf_eq_writeOpt {s t : State} {write : Option (Nat × Pixel)} (ht : step s = .next t)
    (hw : ∀ m : Memory, step { s with surf := m } = .next { t with surf := m.writeOpt write }) :
    t.surf = s.surf.writeOpt write := by
  have hsame := (hw s.surf).symm.trans ht
  simpa using (congrArg State.surf (Host.Outcome.next.inj hsame)).symm

end Sys2Proof.Machine

namespace Sys2Proof.Proofs

open Sys2Proof.Machine

/-- Settles O44: the step chooses its write, if any, before it is told the surface. -/
theorem unitNeverReadsTheSurface : Obligations.UnitNeverReadsTheSurface := by
  refine ⟨read_write, fun s t m hm ht => ?_⟩
  obtain ⟨write, hw⟩ := step_stepsBlindly hm ht
  refine ⟨_, hw m, rfl, ?_⟩
  have hsurf := surf_eq_writeOpt ht hw
  cases write with
  | none => exact .inl ⟨hsurf, rfl⟩
  | some p => exact .inr ⟨p.1, p.2, hsurf, rfl⟩

end Sys2Proof.Proofs
end

section
/-! The value of a drawn cell (20_memory.md R51). -/

namespace Sys2Proof.Machine

variable (c : Color)

/-- Bits 31:24 of a drawn cell. -/
theorem pixelValue_alpha : (pixelValue c).extractLsb' 24 8 = 0xFF#8 :=
  BitVec.extractLsb'_append_eq_left

/-- Below bit 24 a drawn cell has the bits of its colour. -/
theorem pixelValue_channel {start len : Nat} (hlow : start + len ≤ 24) :
    (pixelValue c).extractLsb' start len = c.extractLsb' start len :=
  BitVec.extractLsb'_append_eq_of_add_le hlow

@[simp] theorem pixelRgb_pixelValue : pixelRgb (pixelValue c) = c :=
  BitVec.extractLsb'_append_eq_right

/-- What `getp` stores is the low 24 bits, zero-extended. -/
theorem getpValue_eq_append (v : Pixel) : getpValue v = 0#8 ++ pixelRgb v :=
  BitVec.setWidth_eq_append (by decide)

/-- The pixel that `SetPixel` has drawn reads as its value. -/
theorem surfRead_setPixel (x y : Int) (s : State) :
    surfRead (setPixel x y c s) (pixelAddr s.w x y) = pixelValue c :=
  (surfRead_surfWrite s _ _ _).trans (if_pos rfl)

end Sys2Proof.Machine

namespace Sys2Proof.Proofs

open Sys2Proof.Machine

/-- Settles O37: the cell reads as `pixelValue`, whose fields are its alpha byte and the colour. -/
theorem writtenCellLayout : Obligations.WrittenCellLayout := by
  rintro c x y s _ - rfl
  rw [surfRead_setPixel]
  have hgetp : getpValue (pixelValue c) = 0#8 ++ c := by
    rw [getpValue_eq_append, pixelRgb_pixelValue]
  exact ⟨pixelValue_alpha c, pixelValue_channel c (by decide), pixelValue_channel c (by decide),
    pixelValue_channel c (by decide), rfl, hgetp⟩

end Sys2Proof.Proofs
end

section
/-! Decoding in mask and match form (30_encoding.md R75): under the mask of the table a word is its
code and zeros, and the code alone decides which command the word is. -/

namespace Sys2Proof

variable {cmd : Command}

theorem decode_of_opPoint (hop : cmdOp cmd = opPoint) : decode cmd =
    .ok (.point (cmdColor cmd) (cmdA0 cmd) (cmdA1 cmd) (cmdA2 cmd) (cmdA3 cmd)) := by
  rw [decode, if_pos hop]

theorem decode_of_opLine (hop : cmdOp cmd = opLine) : decode cmd =
    .ok (.line (cmdColor cmd) (cmdA0 cmd) (cmdA1 cmd) (cmdA2 cmd) (cmdA3 cmd)) := by
  rw [decode, if_neg (hop ▸ by decide), if_pos hop]

theorem decode_of_opRect (hop : cmdOp cmd = opRect) : decode cmd =
    .ok (.rect (cmdColor cmd) (cmdA0 cmd) (cmdA1 cmd) (cmdA2 cmd) (cmdA3 cmd)) := by
  rw [decode, if_neg (hop ▸ by decide), if_neg (hop ▸ by decide), if_pos hop]

/-- A word decodes to no command but the one its top byte names. -/
theorem cmdOp_of_decode {i : Instr} (hi : decode cmd = .ok i) : cmdOp cmd = opcodeOf i := by
  obtain ⟨hop, hd⟩ | ⟨hop, hd⟩ | ⟨hop, hd⟩ | ⟨-, -, -, hd⟩ := decode_cases cmd <;>
    simp only [hd, Except.ok.injEq, reduceCtorEq] at hi <;> subst hi <;> exact hop

theorem decode_point_iff :
    (∃ c a0 a1 a2 a3, decode cmd = .ok (.point c a0 a1 a2 a3)) ↔ cmdOp cmd = opPoint :=
  ⟨fun ⟨_, _, _, _, _, hd⟩ => cmdOp_of_decode hd,
    fun hop => ⟨_, _, _, _, _, decode_of_opPoint hop⟩⟩

theorem decode_line_iff :
    (∃ c a0 a1 a2 a3, decode cmd = .ok (.line c a0 a1 a2 a3)) ↔ cmdOp cmd = opLine :=
  ⟨fun ⟨_, _, _, _, _, hd⟩ => cmdOp_of_decode hd,
    fun hop => ⟨_, _, _, _, _, decode_of_opLine hop⟩⟩

theorem decode_rect_iff :
    (∃ c a0 a1 a2 a3, decode cmd = .ok (.rect c a0 a1 a2 a3)) ↔ cmdOp cmd = opRect :=
  ⟨fun ⟨_, _, _, _, _, hd⟩ => cmdOp_of_decode hd,
    fun hop => ⟨_, _, _, _, _, decode_of_opRect hop⟩⟩

/-- The mask keeps the top byte and clears the 152 bits below it. -/
theorem and_opcodeMask (cmd : Command) : cmd &&& opcodeMask = cmdOp cmd ++ 0#152 :=
  calc cmd &&& opcodeMask
    _ = (cmd.extractLsb' 152 8 ++ cmd.extractLsb' 0 152) &&& (BitVec.allOnes 8 ++ 0#152) := by
      rw [BitVec.extractLsb'_append_extractLsb' (w := 8) (len := 152)]; rfl
    _ = cmdOp cmd ++ 0#152 := by
      rw [BitVec.and_append, BitVec.and_allOnes, BitVec.and_zero, cmdOp]

theorem and_opcodeMask_eq_iff (op : OpCode) :
    cmd &&& opcodeMask = op ++ 0#152 ↔ cmdOp cmd = op := by
  rw [and_opcodeMask, BitVec.append_left_inj]

end Sys2Proof

namespace Sys2Proof.Proofs

/-- Settles O2: both sides of each row say that the top byte is the row's code. -/
theorem decodeIsMaskAndMatch : Obligations.DecodeIsMaskAndMatch := fun _ =>
  ⟨(and_opcodeMask_eq_iff opPoint).trans decode_point_iff.symm,
    (and_opcodeMask_eq_iff opLine).trans decode_line_iff.symm,
    (and_opcodeMask_eq_iff opRect).trans decode_rect_iff.symm⟩

end Sys2Proof.Proofs
end

section
/-! The textual form (30_encoding.md R80): in the ranges it allows, each number is read back from
its field of the assembled word. -/

namespace Sys2Proof

@[simp] theorem coordInRange_iff {v : Int} :
    coordInRange v = true ↔ -2147483648 ≤ v ∧ v ≤ 2147483647 := decide_eq_true_iff

@[simp] theorem channelInRange_iff {c : Nat} : channelInRange c = true ↔ c ≤ 255 :=
  decide_eq_true_iff

theorem wellFormed_point_iff {x y : Int} {r g b : Nat} :
    (Listing.point x y r g b).wellFormed = true ↔
      (-2147483648 ≤ x ∧ x ≤ 2147483647) ∧ (-2147483648 ≤ y ∧ y ≤ 2147483647) ∧
      r ≤ 255 ∧ g ≤ 255 ∧ b ≤ 255 := by
  simp only [Listing.wellFormed, Bool.and_eq_true, coordInRange_iff, channelInRange_iff, and_assoc]

theorem wellFormed_line_iff {x1 y1 x2 y2 : Int} {r g b : Nat} :
    (Listing.line x1 y1 x2 y2 r g b).wellFormed = true ↔
      (-2147483648 ≤ x1 ∧ x1 ≤ 2147483647) ∧ (-2147483648 ≤ y1 ∧ y1 ≤ 2147483647) ∧
      (-2147483648 ≤ x2 ∧ x2 ≤ 2147483647) ∧ (-2147483648 ≤ y2 ∧ y2 ≤ 2147483647) ∧
      r ≤ 255 ∧ g ≤ 255 ∧ b ≤ 255 := by
  simp only [Listing.wellFormed, Bool.and_eq_true, coordInRange_iff, channelInRange_iff, and_assoc]

/-- A `rect` has the ranges of a `line`: the same checks on the same seven numbers. -/
theorem wellFormed_rect (x y width height : Int) (r g b : Nat) :
    (Listing.rect x y width height r g b).wellFormed =
      (Listing.line x y width height r g b).wellFormed := rfl

/-- A number in range is the signed value of the field it is assembled to. -/
theorem toInt_of_eq_ofInt {w : Word} {v : Int} (hw : w = BitVec.ofInt 32 v)
    (hv : -2147483648 ≤ v ∧ v ≤ 2147483647) : w.toInt = v := by
  subst hw
  exact BitVec.toInt_ofInt_eq_self (by decide) hv.1 (Int.lt_add_one_of_le hv.2)

/-- A channel in range is the value of the byte it is assembled to. -/
theorem toNat_of_eq_ofNat {w : Byte} {c : Nat} (hw : w = BitVec.ofNat 8 c) (hc : c ≤ 255) :
    w.toNat = c := by
  subst hw
  exact Nat.mod_eq_of_lt (Nat.lt_succ_of_le hc)

/-! The channels of a colour, and where they stand in the command word (R70). -/

theorem rgb_red (r g b : Nat) : (rgb r g b).extractLsb' 0 8 = BitVec.ofNat 8 r :=
  BitVec.extractLsb'_append_eq_right

theorem rgb_green (r g b : Nat) : (rgb r g b).extractLsb' 8 8 = BitVec.ofNat 8 g :=
  (BitVec.extractLsb'_append_eq_of_le (by decide)).trans BitVec.extractLsb'_append_eq_right

theorem rgb_blue (r g b : Nat) : (rgb r g b).extractLsb' 16 8 = BitVec.ofNat 8 b :=
  (BitVec.extractLsb'_append_eq_of_le (by decide)).trans BitVec.extractLsb'_append_eq_left

/-- Bits of the colour field are the bits of the word 128 places up. -/
theorem extractLsb'_cmdColor (cmd : Command) {start len : Nat} (hlen : start + len ≤ 24) :
    cmd.extractLsb' (128 + start) len = (cmdColor cmd).extractLsb' start len := by
  ext i hi
  have hin : start + i < 24 := by omega
  simp [cmdColor, hin, Nat.add_assoc]

section Fields

variable (op : OpCode) {r g b : Nat} {v0 v1 v2 v3 : Int}

/-- A channel of the packed word is the channel of its colour. -/
theorem channel_packCommand {color : Color} {a0 a1 a2 a3 : Word} (start : Nat)
    (hlen : start + 8 ≤ 24) : (packCommand op color a0 a1 a2 a3).extractLsb' (128 + start) 8 =
      color.extractLsb' start 8 := by
  rw [extractLsb'_cmdColor _ hlen, cmdColor_packCommand]

/-- The code, the channels and the first two numbers of an assembled word, and its last two
operand fields as they are. -/
theorem fields_of_twoNumbers (hv0 : -2147483648 ≤ v0 ∧ v0 ≤ 2147483647)
    (hv1 : -2147483648 ≤ v1 ∧ v1 ≤ 2147483647) (hrgb : r ≤ 255 ∧ g ≤ 255 ∧ b ≤ 255)
    {a2 a3 : Word} {cmd : Command}
    (hcmd : cmd = packCommand op (rgb r g b) (BitVec.ofInt 32 v0) (BitVec.ofInt 32 v1) a2 a3) :
    cmd.extractLsb' 152 8 = op ∧
    (cmd.extractLsb' 128 8).toNat = r ∧ (cmd.extractLsb' 136 8).toNat = g ∧
    (cmd.extractLsb' 144 8).toNat = b ∧
    (cmd.extractLsb' 96 32).toInt = v0 ∧ (cmd.extractLsb' 64 32).toInt = v1 ∧
    cmd.extractLsb' 32 32 = a2 ∧ cmd.extractLsb' 0 32 = a3 := by
  subst hcmd
  obtain ⟨hr, hg, hb⟩ := hrgb
  refine ⟨cmdOp_packCommand .., toNat_of_eq_ofNat ?red hr, toNat_of_eq_ofNat ?green hg,
    toNat_of_eq_ofNat ?blue hb, toInt_of_eq_ofInt (cmdA0_packCommand ..) hv0,
    toInt_of_eq_ofInt (cmdA1_packCommand ..) hv1, cmdA2_packCommand .., cmdA3_packCommand ..⟩
  case red => exact (channel_packCommand op 0 (by decide)).trans (rgb_red r g b)
  case green => exact (channel_packCommand op 8 (by decide)).trans (rgb_green r g b)
  case blue => exact (channel_packCommand op 16 (by decide)).trans (rgb_blue r g b)

/-- The code, the channels and all four numbers of an assembled `line` or `rect`. -/
theorem fields_of_fourNumbers (hv0 : -2147483648 ≤ v0 ∧ v0 ≤ 2147483647)
    (hv1 : -2147483648 ≤ v1 ∧ v1 ≤ 2147483647) (hv2 : -2147483648 ≤ v2 ∧ v2 ≤ 2147483647)
    (hv3 : -2147483648 ≤ v3 ∧ v3 ≤ 2147483647) (hrgb : r ≤ 255 ∧ g ≤ 255 ∧ b ≤ 255)
    {cmd : Command}
    (hcmd : cmd = packCommand op (rgb r g b) (BitVec.ofInt 32 v0) (BitVec.ofInt 32 v1)
      (BitVec.ofInt 32 v2) (BitVec.ofInt 32 v3)) :
    cmd.extractLsb' 152 8 = op ∧
    (cmd.extractLsb' 128 8).toNat = r ∧ (cmd.extractLsb' 136 8).toNat = g ∧
    (cmd.extractLsb' 144 8).toNat = b ∧
    (cmd.extractLsb' 96 32).toInt = v0 ∧ (cmd.extractLsb' 64 32).toInt = v1 ∧
    (cmd.extractLsb' 32 32).toInt = v2 ∧ (cmd.extractLsb' 0 32).toInt = v3 := by
  obtain ⟨hop, hr, hg, hb, h0, h1, h2, h3⟩ := fields_of_twoNumbers op hv0 hv1 hrgb hcmd
  exact ⟨hop, hr, hg, hb, h0, h1, toInt_of_eq_ofInt h2 hv2, toInt_of_eq_ofInt h3 hv3⟩

end Fields

end Sys2Proof

namespace Sys2Proof.Proofs

/-- Settles O6: the ranges are the checks of `wellFormed`, and in these ranges every number is the
value of its field. -/
theorem listingAssemblesToItsFields : Obligations.ListingAssemblesToItsFields := by
  refine ⟨fun x y r g b => ⟨wellFormed_point_iff, fun hwf => ?point⟩,
    fun x1 y1 x2 y2 r g b => ⟨wellFormed_line_iff, fun hwf => ?line⟩,
    fun x y width height r g b => ?rect⟩
  case point =>
    obtain ⟨hx, hy, hrgb⟩ := wellFormed_point_iff.1 hwf
    exact ⟨_, rfl, fields_of_twoNumbers opPoint hx hy hrgb rfl⟩
  case line =>
    obtain ⟨hx1, hy1, hx2, hy2, hrgb⟩ := wellFormed_line_iff.1 hwf
    exact ⟨_, rfl, fields_of_fourNumbers opLine hx1 hy1 hx2 hy2 hrgb rfl⟩
  case rect =>
    rw [wellFormed_rect]
    refine ⟨wellFormed_line_iff, fun hwf => ?_⟩
    obtain ⟨hx, hy, hwidth, hheight, hrgb⟩ := wellFormed_line_iff.1 hwf
    exact ⟨_, rfl, fields_of_fourNumbers opRect hx hy hwidth hheight hrgb rfl⟩

end Sys2Proof.Proofs
end

section
/-! The fields a POINT does not use (30_encoding.md R74): plotting does not look at the latches
`A[2]` and `A[3]`. -/

namespace Sys2Proof.Machine

/-- Replacing the latches `A[2]` and `A[3]`. -/
def setLastOperands (b2 b3 : Word) (s : State) : State := { s with a2 := b2, a3 := b3 }

/-- Plotting tests the same bounds and writes the same cell whatever `A[2]` and `A[3]` are. -/
theorem plot_setLastOperands (x y : Int) (b2 b3 : Word) (s : State) :
    plot x y (setLastOperands b2 b3 s) = setLastOperands b2 b3 (plot x y s) :=
  (apply_ite (setLastOperands b2 b3) (onSurface s x y = true) (setPixel x y s.color s) s).symm

/-- A POINT with other unused fields: the same next state but for the two latches. -/
theorem execPoint_lastOperands (color : Color) (a0 a1 a2 a3 b2 b3 : Word) (s : State) :
    execPoint color a0 a1 b2 b3 s =
      .next (setLastOperands b2 b3
        (setPhase .idle (plot a0.toInt a1.toInt (latch opPoint color a0 a1 a2 a3 s)))) :=
  congrArg (fun t => Host.Outcome.next (setPhase .idle t))
    (plot_setLastOperands a0.toInt a1.toInt b2 b3 (latch opPoint color a0 a1 a2 a3 s))

end Sys2Proof.Machine

namespace Sys2Proof

/-- Whatever its unused fields hold, the word of a POINT decodes to it. -/
theorem decode_encode_point (color : Color) (a0 a1 a2 a3 : Word) :
    decode (encode (.point color a0 a1 a2 a3)) = .ok (.point color a0 a1 a2 a3) := by
  rw [decode_of_opPoint (Laws.OpcodeField.point color a0 a1 a2 a3)]
  simp only [encode, cmdColor_packCommand, cmdA0_packCommand, cmdA1_packCommand,
    cmdA2_packCommand, cmdA3_packCommand]

end Sys2Proof

namespace Sys2Proof.Proofs

open Sys2Proof.Machine

/-- Settles O17: the word is a POINT by its code, and the plot does not see the unused latches. -/
theorem pointIgnoresUnusedFields : Obligations.PointIgnoresUnusedFields :=
  fun c a0 a1 a2 a3 b2 b3 s _ =>
    ⟨decode_encode_point c a0 a1 b2 b3, _, rfl, execPoint_lastOperands c a0 a1 a2 a3 b2 b3 s⟩

end Sys2Proof.Proofs
end

section
/-! Outside IDLE the unit does not see the offer (40_command_cycle.md R91): its run steps neither
read nor write it, and they keep the latches of the command that runs. -/

namespace Sys2Proof.Machine

/-- Replacing what is on offer, by another word or by none. -/
def withOffer (o : Option Command) (s : State) : State := { s with offer := o }

/-- The operation neither reads nor writes the offer. -/
def OfferFree (f : State → State) : Prop :=
  ∀ (o : Option Command) (s : State), f (withOffer o s) = withOffer o (f s)

theorem offerFree_setPixelAtPosition :
    OfferFree fun s => setPixel s.cx.toInt s.cy.toInt s.color s := fun _ _ => rfl

theorem offerFree_plotPosition : OfferFree fun s => plot s.cx.toInt s.cy.toInt s := fun o s =>
  (apply_ite (withOffer o) (onSurface s s.cx.toInt s.cy.toInt = true) (setPixel _ _ _ s) s).symm

theorem offerFree_lineAdvance : OfferFree lineAdvance := fun o s =>
  (apply_ite (withOffer o) (s.cx = s.a2 ∧ s.cy = s.a3) (setPhase .idle s) (setWalker _ s)).symm

theorem offerFree_rectAdvance : OfferFree rectAdvance := fun o s => by
  rw [rectAdvance, rectAdvance, apply_ite (withOffer o), apply_ite (withOffer o)]
  rfl

/-! The latches (10_state.md R21, R24). -/

/-- The latched command: `OP`, `COLOR` and `A[0]` to `A[3]`. -/
def latchesOf (s : State) : OpCode × Color × Word × Word × Word × Word :=
  (s.op, s.color, s.a0, s.a1, s.a2, s.a3)

theorem latchesOf_eq_iff {s t : State} : latchesOf t = latchesOf s ↔
    t.op = s.op ∧ t.color = s.color ∧ t.a0 = s.a0 ∧ t.a1 = s.a1 ∧ t.a2 = s.a2 ∧ t.a3 = s.a3 := by
  simp only [latchesOf, Prod.mk.injEq]

@[simp] theorem latchesOf_setPixel (x y : Int) (c : Color) (s : State) :
    latchesOf (setPixel x y c s) = latchesOf s := rfl

@[simp] theorem latchesOf_plot (x y : Int) (s : State) : latchesOf (plot x y s) = latchesOf s := by
  obtain ⟨-, h⟩ | ⟨-, h⟩ := plot_cases x y s <;> rw [h]
  rfl

@[simp] theorem latchesOf_rectAdvance (s : State) : latchesOf (rectAdvance s) = latchesOf s :=
  (congrArg latchesOf (rectAdvance_frame s)).trans rfl

@[simp] theorem latchesOf_lineAdvance (s : State) : latchesOf (lineAdvance s) = latchesOf s :=
  (congrArg latchesOf (lineAdvance_frame s)).trans rfl

/-! The unit's step and the machine's step outside IDLE. -/

section Busy

variable {s t : State} (hbusy : s.phase ≠ .idle)
include hbusy

theorem unitStep_latches_of_busy (ht : unitStep s = .next t) : latchesOf t = latchesOf s := by
  obtain ⟨-, hp, -⟩ | ⟨-, -, rfl⟩ | ⟨-, rfl⟩ := unitStep_next ht
  · exact absurd hp hbusy
  · simp only [latchesOf_rectAdvance, latchesOf_setPixel]
  · simp only [latchesOf_lineAdvance, latchesOf_plot]

theorem unitStep_withOffer_of_busy (ht : unitStep s = .next t) (o : Option Command) :
    unitStep (withOffer o s) = .next (withOffer o t) := by
  obtain ⟨-, hp, -⟩ | ⟨hp, hon, rfl⟩ | ⟨hp, rfl⟩ := unitStep_next ht
  · exact absurd hp hbusy
  · rw [← offerFree_rectAdvance, ← offerFree_setPixelAtPosition]
    simp only [unitStep, withOffer, hp]
    exact if_pos hon
  · rw [← offerFree_lineAdvance, ← offerFree_plotPosition]
    simp only [unitStep, withOffer, hp, lineRun]

/-- Only in IDLE does it depend on the offer whether the unit has an enabled step. -/
theorem unitEnabled_withOffer_of_busy (o : Option Command) :
    unitEnabled (withOffer o s) = unitEnabled s := by
  unfold unitEnabled withOffer
  cases hp : s.phase with
  | idle => exact absurd hp hbusy
  | rect | line | fault => rfl

/-- At the unit's turn: a run step of the unit, or the turn passes. -/
theorem step_of_busy (hm : Safety.unitToMove s) (ht : step s = .next t) :
    latchesOf t = latchesOf s ∧ ∀ o, step (withOffer o s) = .next (withOffer o t) := by
  have henabled := unitEnabled_withOffer_of_busy hbusy
  obtain ⟨-, hu⟩ | ⟨rest, hs, he, rfl⟩ | ⟨h, rest, hs, -⟩ := step_next ht
  · have he : unitEnabled s = true := unitEnabled_of_unitStep_next (s := Safety.afterTurn s) hu
    refine ⟨unitStep_latches_of_busy (s := Safety.afterTurn s) hbusy hu, fun o => ?_⟩
    calc step (withOffer o s)
      _ = unitStep (withOffer o (Safety.afterTurn s)) :=
        step_of_unitToMove (s := withOffer o s) hm ((henabled o).trans he)
      _ = .next (withOffer o t) := unitStep_withOffer_of_busy (s := Safety.afterTurn s) hbusy hu o
  · exact ⟨rfl, fun o => step_of_passedTurn (s := withOffer o s) hs ((henabled o).trans he)⟩
  · obtain hn | ⟨_, hn⟩ := hm <;> simp [hs] at hn

end Busy

/-- A step that does not see the offer leaves it: replacing the offer by itself changes nothing. -/
theorem offer_eq_of_step_withOffer {s t : State} (ht : step s = .next t)
    (hfree : ∀ o, step (withOffer o s) = .next (withOffer o t)) : t.offer = s.offer := by
  have hsame : t = withOffer s.offer t := Host.Outcome.next.inj (ht.symm.trans (hfree s.offer))
  exact (congrArg State.offer hsame).trans rfl

end Sys2Proof.Machine

namespace Sys2Proof.Proofs

open Sys2Proof.Machine

/-- Settles O9: outside IDLE the unit's step commutes with replacing the offer, and no run step
writes a latch. -/
theorem busyUnitLeavesTheOfferAlone : Obligations.BusyUnitLeavesTheOfferAlone := by
  intro s t o hm hbusy ht
  obtain ⟨hlatches, hfree⟩ := step_of_busy hbusy hm ht
  obtain ⟨hop, hcolor, ha0, ha1, ha2, ha3⟩ := latchesOf_eq_iff.1 hlatches
  exact ⟨offer_eq_of_step_withOffer ht hfree, hop, hcolor, ha0, ha1, ha2, ha3, hfree o⟩

end Sys2Proof.Proofs
end

section
/-! POINT (41_point.md R110): the accept step latches the command and plots its one pixel, which is
drawn exactly when it is on the surface. -/

namespace Sys2Proof.Machine

/-- Plotting writes the surface and nothing else. -/
theorem plot_frame (x y : Int) (s : State) :
    plot x y s = { s with surf := (plot x y s).surf } := by
  obtain ⟨-, h⟩ | ⟨-, h⟩ := plot_cases x y s <;> rw [h]
  rfl

/-- After plotting a pixel that is on the surface, its cell `y*W + x` reads as drawn and every other
cell as before. -/
theorem surfRead_plot_of_onSurface {x y : Int} {s : State} (hon : onSurface s x y = true)
    (addr : Nat) : surfRead (plot x y s) addr =
      if (addr : Int) = y * s.w.toNat + x then pixelValue s.color else surfRead s addr := by
  obtain ⟨hx, -, hy, -⟩ := (inBounds_iff s.w s.h x y).1 hon
  rw [plot, if_pos hon, setPixel, surfRead_surfWrite, ← pixelAddr_cast hx hy]
  simp only [Nat.cast_inj]

/-- The next state of a POINT (41_point.md R110): the latches, PHASE and what the plot leaves. -/
def afterPoint (c : Color) (a0 a1 a2 a3 : Word) (s : State) : State :=
  setPhase .idle (plot a0.toInt a1.toInt (latch opPoint c a0 a1 a2 a3 s))

section AfterPoint

variable (c : Color) (a0 a1 a2 a3 : Word) (s : State)

theorem exec_point :
    exec (.point c a0 a1 a2 a3) s = .next (afterPoint c a0 a1 a2 a3 s) := rfl

/-- A POINT writes the latches, PHASE and the surface; `CX`, `CY` and `ERR` stay. -/
theorem afterPoint_frame : afterPoint c a0 a1 a2 a3 s =
    { s with op := opPoint, color := c, a0 := a0, a1 := a1, a2 := a2, a3 := a3, phase := .idle,
             surf := (afterPoint c a0 a1 a2 a3 s).surf } :=
  congrArg (setPhase .idle) (plot_frame a0.toInt a1.toInt (latch opPoint c a0 a1 a2 a3 s))

variable {c a0 a1 a2 a3 s}

theorem surfRead_afterPoint_of_inBounds (hin : inBounds s.w s.h a0.toInt a1.toInt = true)
    (addr : Nat) : surfRead (afterPoint c a0 a1 a2 a3 s) addr =
      if (addr : Int) = a1.toInt * s.w.toNat + a0.toInt then pixelValue c else surfRead s addr :=
  surfRead_plot_of_onSurface (s := latch opPoint c a0 a1 a2 a3 s) hin addr

theorem afterPoint_surf_of_not_inBounds (hout : ¬inBounds s.w s.h a0.toInt a1.toInt = true) :
    (afterPoint c a0 a1 a2 a3 s).surf = s.surf :=
  (plot_surf (latch opPoint c a0 a1 a2 a3 s) a0.toInt a1.toInt).trans (if_neg hout)

theorem draws_point_of_inBounds {w h : BitVec 16} (hin : inBounds w h a0.toInt a1.toInt = true) :
    draws w h (.point c a0 a1 a2 a3) = [(a0.toInt, a1.toInt)] := if_pos hin

theorem draws_point_of_not_inBounds {w h : BitVec 16}
    (hout : ¬inBounds w h a0.toInt a1.toInt = true) : draws w h (.point c a0 a1 a2 a3) = [] :=
  if_neg hout

end AfterPoint

end Sys2Proof.Machine

namespace Sys2Proof.Proofs

open Sys2Proof.Machine

/-- Settles O16: the next state is `afterPoint`, and the bounds test of its plot is that of
`Draws`. -/
theorem pointDrawsItsPixelAndFinishes : Obligations.PointDrawsItsPixelAndFinishes := by
  intro c a0 a1 a2 a3 s _
  refine ⟨Laws.OpcodeField.point c a0 a1 a2 a3, _, exec_point c a0 a1 a2 a3 s,
    afterPoint_frame c a0 a1 a2 a3 s, fun hon => ?inBounds, fun hoff => ?outOfBounds⟩
  case inBounds =>
    have hin := (inBounds_iff s.w s.h a0.toInt a1.toInt).2 hon
    exact ⟨draws_point_of_inBounds hin, surfRead_afterPoint_of_inBounds hin⟩
  case outOfBounds =>
    have hout := mt (inBounds_iff s.w s.h a0.toInt a1.toInt).1 hoff
    exact ⟨draws_point_of_not_inBounds hout, afterPoint_surf_of_not_inBounds hout⟩

end Sys2Proof.Proofs
end

section
/-! RECT (42_rect.md R116 to R118): the clipped edges, the accept part and the run step. A position
inside the clipped rectangle is on the surface, and the edges and each move fit the 32-bit walker
registers. -/

namespace Sys2Proof.Machine

/-- The left and the top edge are kept by the 32-bit registers (42_rect.md R116). -/
theorem toInt_ofInt_max_zero (x : Word) :
    (BitVec.ofInt 32 (max x.toInt 0)).toInt = max x.toInt 0 := by
  obtain ⟨hlow, hhigh⟩ := word_toInt_range x
  exact ofInt_toInt_of_range (by omega) (by omega)

/-- A coordinate that moves by one and stays below `W` or `H` is kept by its 32-bit register. -/
theorem toInt_ofInt_succ_of_lt {x : Word} {size : BitVec 16} (hlt : x.toInt + 1 < size.toNat) :
    (BitVec.ofInt 32 (x.toInt + 1)).toInt = x.toInt + 1 := by
  have hlow := (word_toInt_range x).1
  have hsize := size.isLt
  exact ofInt_toInt_of_range (by omega) (by omega)

/-- The accept part of a RECT with something left to draw: to the corner of the clipped edges. -/
theorem exec_rect_of_nonEmpty {c : Color} {a0 a1 a2 a3 : Word} {s : State}
    (hne : clipNonEmpty (clipOfOperands s.w s.h a0 a1 a2 a3) = true) :
    exec (.rect c a0 a1 a2 a3) s = .next (setPhase .rect
      (setPosition (max a0.toInt 0) (max a1.toInt 0) (latch opRect c a0 a1 a2 a3 s))) :=
  congrArg Host.Outcome.next (if_pos hne)

/-- The accept part of a RECT with nothing left to draw: finished. -/
theorem exec_rect_of_empty {c : Color} {a0 a1 a2 a3 : Word} {s : State}
    (hempty : ¬clipNonEmpty (clipOfOperands s.w s.h a0 a1 a2 a3) = true) :
    exec (.rect c a0 a1 a2 a3) s = .next (setPhase .idle (latch opRect c a0 a1 a2 a3 s)) :=
  congrArg Host.Outcome.next (if_neg hempty)

variable {s : State}

/-- A position between the clipped edges is on the surface (42_rect.md R119). -/
theorem onSurface_of_inClip {x y : Int} (hl : (clipOf s).left ≤ x) (hr : x < (clipOf s).right)
    (ht : (clipOf s).top ≤ y) (hb : y < (clipOf s).bottom) : onSurface s x y = true :=
  (inBounds_iff s.w s.h x y).2
    ⟨(le_max_right _ _).trans hl, hr.trans_le (min_le_right _ _),
      (le_max_right _ _).trans ht, hb.trans_le (min_le_right _ _)⟩

/-! The three ways on of a RECT (42_rect.md R118), each by its own condition. -/

theorem rectAdvance_in_row (hp : s.phase = .rect) (hrow : s.cx.toInt + 1 < (clipOf s).right) :
    (rectAdvance s).cx.toInt = s.cx.toInt + 1 ∧ (rectAdvance s).cy = s.cy ∧
      (rectAdvance s).phase = .rect := by
  rw [rectAdvance, if_pos hrow]
  exact ⟨toInt_ofInt_succ_of_lt (hrow.trans_le (min_le_right _ _)), BitVec.ofInt_toInt, hp⟩

theorem rectAdvance_to_next_row (hp : s.phase = .rect)
    (hrow : ¬s.cx.toInt + 1 < (clipOf s).right) (hcol : s.cy.toInt + 1 < (clipOf s).bottom) :
    (rectAdvance s).cx.toInt = (clipOf s).left ∧ (rectAdvance s).cy.toInt = s.cy.toInt + 1 ∧
      (rectAdvance s).phase = .rect := by
  rw [rectAdvance, if_neg hrow, if_pos hcol]
  exact ⟨toInt_ofInt_max_zero s.a0,
    toInt_ofInt_succ_of_lt (hcol.trans_le (min_le_right _ _)), hp⟩

theorem rectAdvance_at_last_cell (hrow : ¬s.cx.toInt + 1 < (clipOf s).right)
    (hcol : ¬s.cy.toInt + 1 < (clipOf s).bottom) :
    (rectAdvance s).cx = s.cx ∧ (rectAdvance s).cy = s.cy ∧ (rectAdvance s).phase = .idle := by
  rw [rectAdvance, if_neg hrow, if_neg hcol]
  exact ⟨rfl, rfl, rfl⟩

@[simp] theorem rectAdvance_surf (s : State) : (rectAdvance s).surf = s.surf :=
  (congrArg State.surf (rectAdvance_frame s)).trans rfl

/-- Moving on leaves what every cell reads as. -/
theorem surfRead_rectAdvance (s : State) (addr : Nat) :
    surfRead (rectAdvance s) addr = surfRead s addr :=
  (congrArg (surfRead · addr) (rectAdvance_frame s)).trans rfl

/-- The next state of a RECT run step (42_rect.md R118): the cell drawn, then the move. -/
def afterRectRun (s : State) : State :=
  rectAdvance (setPixel s.cx.toInt s.cy.toInt s.color s)

theorem step_rect_of_onSurface (hm : Safety.unitToMove s) (hp : s.phase = .rect)
    (hon : onSurface s s.cx.toInt s.cy.toInt = true) :
    step s = .next (afterRectRun (Safety.afterTurn s)) := by
  rw [step_of_unitToMove hm ((unitEnabled_iff s).2 (.inr (.inl hp)))]
  simp only [unitStep, afterTurn_phase, hp]
  exact if_pos hon

/-- A RECT run step writes the position, PHASE and the surface. -/
theorem afterRectRun_frame (s : State) : afterRectRun s =
    { s with cx := (afterRectRun s).cx, cy := (afterRectRun s).cy,
             phase := (afterRectRun s).phase, surf := (afterRectRun s).surf } := by
  rw [afterRectRun, rectAdvance_surf]
  exact rectAdvance_frame _

theorem surfRead_afterRectRun (hon : onSurface s s.cx.toInt s.cy.toInt = true) (addr : Nat) :
    surfRead (afterRectRun s) addr =
      if (addr : Int) = s.cy.toInt * s.w.toNat + s.cx.toInt then pixelValue s.color
      else surfRead s addr := by
  have hplot : plot s.cx.toInt s.cy.toInt s = setPixel s.cx.toInt s.cy.toInt s.color s := if_pos hon
  rw [afterRectRun, surfRead_rectAdvance, ← hplot, surfRead_plot_of_onSurface hon]

end Sys2Proof.Machine

namespace Sys2Proof.Proofs

open Sys2Proof.Machine

/-- Settles O19: the edges tested are those of the operands, and the corner fits the registers. -/
theorem rectStartsAtTheClippedCorner : Obligations.RectStartsAtTheClippedCorner := by
  rintro c a0 a1 a2 a3 s l r t b - rfl rfl rfl rfl
  have hiff := clipNonEmpty_iff (clipOfOperands s.w s.h a0 a1 a2 a3)
  exact ⟨Laws.OpcodeField.rect c a0 a1 a2 a3,
    fun hne => ⟨_, exec_rect_of_nonEmpty (hiff.2 hne), toInt_ofInt_max_zero a0,
      toInt_ofInt_max_zero a1, rfl⟩,
    fun hempty => exec_rect_of_empty (mt hiff.1 hempty)⟩

/-- Settles O20: between the edges the position is on the surface, so the step is `afterRectRun`. -/
theorem rectRunStepWritesOneCellAndMovesOn : Obligations.RectRunStepWritesOneCellAndMovesOn := by
  rintro s l r t b hm hp rfl rfl rfl rfl hl hr ht hb
  have hon : onSurface s s.cx.toInt s.cy.toInt = true := onSurface_of_inClip hl hr ht hb
  refine ⟨_, step_rect_of_onSurface hm hp hon, afterRectRun_frame (Safety.afterTurn s),
    surfRead_afterRectRun (s := Safety.afterTurn s) hon, ?inRow, ?nextRow, ?lastCell⟩
  case inRow => exact rectAdvance_in_row (s := setPixel _ _ _ (Safety.afterTurn s)) hp
  case nextRow => exact rectAdvance_to_next_row (s := setPixel _ _ _ (Safety.afterTurn s)) hp
  case lastCell => exact rectAdvance_at_last_cell (s := setPixel _ _ _ (Safety.afterTurn s))

end Sys2Proof.Proofs
end

section
/-! The walk of a LINE (43_line.md R134 to R138). After `i` steps in x and `j` steps in y the three
walker registers are determined by `i` and `j`; along the major axis the walk steps every time,
along the minor axis as often as the rounded quotient of R136 says. So the walk stays in the box of
its two end points and is at the end point after `N` steps. -/

namespace Sys2Proof.Machine

variable (g : Segment)

theorem lineDX_eq_abs : lineDX g = |g.x2 - g.x1| := Int.natCast_natAbs _

theorem lineDY_eq_neg_abs : lineDY g = -|g.y2 - g.y1| := congrArg Neg.neg (Int.natCast_natAbs _)

theorem lineDX_nonneg : 0 ≤ lineDX g := Int.natCast_nonneg _

theorem lineDY_nonpos : lineDY g ≤ 0 := Int.neg_nonpos_of_nonneg (Int.natCast_nonneg _)

theorem lineN_eq_max : (lineN g : Int) = max (lineDX g) (-lineDY g) := by
  simp only [lineN, lineDX, lineDY, neg_neg, Nat.cast_max]

/-- The end point is `DX` steps in x from the first point. -/
theorem x1_add_lineSX_mul_lineDX : g.x1 + lineSX g * lineDX g = g.x2 := by
  unfold lineSX lineDX
  split <;> omega

/-- The end point is `-DY` steps in y from the first point. -/
theorem y1_add_lineSY_mul_neg_lineDY : g.y1 + lineSY g * -lineDY g = g.y2 := by
  unfold lineSY lineDY
  split <;> omega

/-- The walker after `i` steps in x and `j` steps in y. -/
def walkerAfter (i j : Int) : Walker where
  cx := g.x1 + lineSX g * i
  cy := g.y1 + lineSY g * j
  err := lineDX g * (j + 1) + lineDY g * (i + 1)

theorem lineStart_eq_walkerAfter : lineStart g = walkerAfter g 0 0 := by
  simp only [lineStart, walkerAfter, mul_zero, add_zero, zero_add, mul_one]

/-- `Advance` counts one step more on each axis whose test holds. -/
theorem advance_walkerAfter (i j : Int) :
    advance g (walkerAfter g i j) = walkerAfter g
      (if lineDY g ≤ 2 * (walkerAfter g i j).err then i + 1 else i)
      (if 2 * (walkerAfter g i j).err ≤ lineDX g then j + 1 else j) := by
  unfold advance advanceErrX
  split <;> split <;> simp only [walkerAfter, Walker.mk.injEq, mul_add, mul_one, add_assoc,
    true_and] <;> ring

/-- At least one of the two tests of `Advance` holds. -/
theorem advance_test (e2 : Int) : lineDY g ≤ e2 ∨ e2 ≤ lineDX g := by
  have hdx := lineDX_nonneg g
  have hdy := lineDY_nonpos g
  omega

/-! The minor axis (43_line.md R136). -/

/-- The steps along the minor axis, of extent `a`, during the first `k` along the major axis, of
extent `d`: `a*k/d` rounded to the nearest integer, one half upward. -/
def minorSteps (d a : Int) (k : Nat) : Int := (2 * a * k + d) / (2 * d)

section MinorSteps

variable {d a : Int} (hd : 0 < d)
include hd

theorem minorSteps_eq_iff {k : Nat} {j : Int} :
    minorSteps d a k = j ↔ 2 * (d * j) ≤ 2 * (a * k) + d ∧ 2 * (a * k) + d < 2 * (d * (j + 1)) := by
  have hlow : j ≤ minorSteps d a k ↔ j * (2 * d) ≤ 2 * a * k + d :=
    Int.le_ediv_iff_mul_le (by omega)
  have hhigh : minorSteps d a k < j + 1 ↔ 2 * a * k + d < (j + 1) * (2 * d) :=
    Int.ediv_lt_iff_lt_mul (by omega)
  have hj : j * (2 * d) = 2 * (d * j) := by ring
  have hj1 : (j + 1) * (2 * d) = 2 * (d * (j + 1)) := by ring
  have hk : 2 * a * k = 2 * (a * k) := mul_assoc ..
  omega

theorem minorSteps_zero : minorSteps d a 0 = 0 := by
  rw [minorSteps_eq_iff hd, Nat.cast_zero, mul_zero, mul_zero]
  omega

/-- Over the whole major axis the walk covers the whole minor axis. -/
theorem minorSteps_of_eq {k : Nat} (hk : (k : Int) = d) : minorSteps d a k = a := by
  rw [minorSteps_eq_iff hd, hk, mul_comm a d, mul_add]
  omega

/-- The minor axis steps exactly where that keeps it within one half of the line. -/
theorem minorSteps_succ (ha : 0 ≤ a) (had : a ≤ d) (k : Nat) :
    minorSteps d a (k + 1) = if 2 * (d * (minorSteps d a k + 1)) ≤ 2 * (a * (k + 1)) + d
      then minorSteps d a k + 1 else minorSteps d a k := by
  obtain ⟨hlow, hhigh⟩ := (minorSteps_eq_iff (k := k) hd).1 rfl
  rw [minorSteps_eq_iff hd]
  push_cast
  split <;> constructor <;> linarith

theorem minorSteps_nonneg (ha : 0 ≤ a) (k : Nat) : 0 ≤ minorSteps d a k :=
  Int.ediv_nonneg (by positivity) (by omega)

theorem minorSteps_le (ha : 0 ≤ a) {k : Nat} (hk : (k : Int) ≤ d) : minorSteps d a k ≤ a :=
  calc minorSteps d a k
    _ ≤ minorSteps d a d.toNat := Int.ediv_le_ediv (by omega) (by gcongr; omega)
    _ = a := minorSteps_of_eq hd (by omega)

end MinorSteps

variable {g}

/-! The two kinds of walk: x is the major axis, or y is. -/

/-- On an x-major line x steps every time, and the test of y is the rounding of R136. -/
theorem walkAt_of_xMajor (hx : 0 < lineDX g) (hxy : -lineDY g ≤ lineDX g) (k : Nat) :
    walkAt g k = walkerAfter g k (minorSteps (lineDX g) (-lineDY g) k) := by
  induction k with
  | zero => rw [minorSteps_zero hx]; exact lineStart_eq_walkerAfter g
  | succ k ih =>
    have hy := lineDY_nonpos g
    obtain ⟨hlow, hhigh⟩ := (minorSteps_eq_iff (a := -lineDY g) (k := k) hx).1 rfl
    have hsteps : lineDY g ≤ 2 * (walkerAfter g k (minorSteps (lineDX g) (-lineDY g) k)).err := by
      simp only [walkerAfter]
      linarith
    rw [walkAt, ih, advance_walkerAfter, minorSteps_succ hx (by omega) hxy, if_pos hsteps]
    refine congrArg (walkerAfter g (k + 1)) (if_congr ?_ rfl rfl)
    simp only [walkerAfter]
    constructor <;> intro <;> linarith

/-- On a y-major line y steps every time, and the test of x is the rounding of R136. -/
theorem walkAt_of_yMajor (hy : 0 < -lineDY g) (hyx : lineDX g ≤ -lineDY g) (k : Nat) :
    walkAt g k = walkerAfter g (minorSteps (-lineDY g) (lineDX g) k) k := by
  induction k with
  | zero => rw [minorSteps_zero hy]; exact lineStart_eq_walkerAfter g
  | succ k ih =>
    have hx := lineDX_nonneg g
    obtain ⟨hlow, hhigh⟩ := (minorSteps_eq_iff (a := lineDX g) (k := k) hy).1 rfl
    have hsteps : 2 * (walkerAfter g (minorSteps (-lineDY g) (lineDX g) k) k).err ≤ lineDX g := by
      simp only [walkerAfter]
      linarith
    rw [walkAt, ih, advance_walkerAfter, minorSteps_succ hy hx hyx, if_pos hsteps]
    refine congrArg (walkerAfter g · (k + 1)) (if_congr ?_ rfl rfl)
    simp only [walkerAfter]
    constructor <;> intro <;> linarith

/-- Up to `N` steps the walk takes no step beyond the end point on either axis, and after `N` steps
it has taken them all. -/
theorem walkAt_eq_walkerAfter {k : Nat} (hk : k ≤ lineN g) :
    ∃ i j, walkAt g k = walkerAfter g i j ∧ 0 ≤ i ∧ i ≤ lineDX g ∧ 0 ≤ j ∧ j ≤ -lineDY g ∧
      (k = lineN g → i = lineDX g ∧ j = -lineDY g) := by
  have hx := lineDX_nonneg g
  have hy := lineDY_nonpos g
  have hN := lineN_eq_max g
  obtain hzero | hpos := Nat.eq_zero_or_pos (lineN g)
  · obtain rfl : k = 0 := by omega
    exact ⟨0, 0, lineStart_eq_walkerAfter g, by omega⟩
  · obtain hxy | hyx := le_total (-lineDY g) (lineDX g)
    · have hmajor : 0 < lineDX g := by omega
      exact ⟨_, _, walkAt_of_xMajor hmajor hxy k, by omega, by omega,
        minorSteps_nonneg hmajor (by omega) k, minorSteps_le hmajor (by omega) (by omega),
        fun _ => ⟨by omega, minorSteps_of_eq hmajor (by omega)⟩⟩
    · have hmajor : 0 < -lineDY g := by omega
      exact ⟨_, _, walkAt_of_yMajor hmajor hyx k, minorSteps_nonneg hmajor hx k,
        minorSteps_le hmajor hx (by omega), by omega, by omega,
        fun _ => ⟨minorSteps_of_eq hmajor (by omega), by omega⟩⟩

/-! Where the walk ends and where it stays (43_line.md R138, R139). -/

/-- After `N` steps the walk is at the end point. -/
theorem walkAt_lineN : (walkAt g (lineN g)).cx = g.x2 ∧ (walkAt g (lineN g)).cy = g.y2 := by
  obtain ⟨i, j, hw, -, -, -, -, hend⟩ := walkAt_eq_walkerAfter (le_refl (lineN g))
  obtain ⟨rfl, rfl⟩ := hend rfl
  rw [hw]
  exact ⟨x1_add_lineSX_mul_lineDX g, y1_add_lineSY_mul_neg_lineDY g⟩

/-- A coordinate that goes from `p` toward `q` by no more than their distance stays between them. -/
theorem between_of_steps {p q i : Int} (hi0 : 0 ≤ i) (hi : i ≤ (q - p).natAbs) :
    min p q ≤ p + (if p < q then 1 else -1) * i ∧
      p + (if p < q then 1 else -1) * i ≤ max p q := by
  split <;> omega

/-- Every visited x lies between those of the two end points. -/
theorem walkAt_cx_between {k : Nat} (hk : k ≤ lineN g) :
    min g.x1 g.x2 ≤ (walkAt g k).cx ∧ (walkAt g k).cx ≤ max g.x1 g.x2 := by
  obtain ⟨i, j, hw, hi0, hi, -⟩ := walkAt_eq_walkerAfter hk
  rw [hw]
  exact between_of_steps hi0 hi

/-- Every visited y lies between those of the two end points. -/
theorem walkAt_cy_between {k : Nat} (hk : k ≤ lineN g) :
    min g.y1 g.y2 ≤ (walkAt g k).cy ∧ (walkAt g k).cy ≤ max g.y1 g.y2 := by
  obtain ⟨i, j, hw, -, -, hj0, hj, -⟩ := walkAt_eq_walkerAfter hk
  rw [hw]
  exact between_of_steps hj0 (hj.trans_eq (neg_neg _))

end Sys2Proof.Machine
end

section
/-! LINE (43_line.md R132 to R134): the accept part and the run step. A walker on the walk of its
line stays, by `Advance`, in the box of two 32-bit points, so the 32-bit registers keep it. -/

namespace Sys2Proof.Machine

theorem exec_line (c : Color) (a0 a1 a2 a3 : Word) (s : State) :
    exec (.line c a0 a1 a2 a3) s = .next (startLine (latch opLine c a0 a1 a2 a3 s)) := rfl

/-- The start of a LINE: the walker at the first point, `ERR = DX + DY`, `PHASE = LINE`. -/
theorem startLine_eq (s : State) : startLine s =
    { s with cx := s.a0, cy := s.a1, err := lineDX (segmentOf s) + lineDY (segmentOf s),
             phase := .line } := by
  have hx : BitVec.ofInt 32 s.a0.toInt = s.a0 := BitVec.ofInt_toInt
  have hy : BitVec.ofInt 32 s.a1.toInt = s.a1 := BitVec.ofInt_toInt
  simp only [startLine, setPhase, setWalker, setErr, setPosition, lineStart, segmentOf, hx, hy]

/-- The rule for `ERR` of `Advance`: one addition for each test that holds. -/
theorem advance_err (g : Segment) (p : Walker) : (advance g p).err =
    p.err + (if lineDY g ≤ 2 * p.err then lineDY g else 0) +
      (if 2 * p.err ≤ lineDX g then lineDX g else 0) := by
  unfold advance advanceErrX
  split <;> split <;> simp only [add_zero]

/-- An integer between two 32-bit operands is kept by a 32-bit register. -/
theorem toInt_ofInt_of_between {p q : Word} {x : Int}
    (hx : min p.toInt q.toInt ≤ x ∧ x ≤ max p.toInt q.toInt) : (BitVec.ofInt 32 x).toInt = x := by
  have hp := word_toInt_range p
  have hq := word_toInt_range q
  exact ofInt_toInt_of_range (by omega) (by omega)

/-- The walker registers read back what fits them. -/
theorem walkerOf_setWalker {p : Walker} (s : State) (hx : (BitVec.ofInt 32 p.cx).toInt = p.cx)
    (hy : (BitVec.ofInt 32 p.cy).toInt = p.cy) : walkerOf (setWalker p s) = p :=
  congrArg₂ (Walker.mk · · p.err) hx hy

variable {s : State}

/-- A walker on the walk of its line that is not at the end point has steps left. -/
theorem lt_lineN_of_not_at_end {k : Nat} (hk : k ≤ lineN (segmentOf s))
    (hwalk : walkerOf s = walkAt (segmentOf s) k) (hne : ¬(s.cx = s.a2 ∧ s.cy = s.a3)) :
    k < lineN (segmentOf s) := by
  refine hk.lt_of_ne fun hN => hne ?_
  obtain ⟨hx, hy⟩ := walkAt_lineN (g := segmentOf s)
  rw [← hN, ← hwalk] at hx hy
  exact ⟨BitVec.eq_of_toInt_eq hx, BitVec.eq_of_toInt_eq hy⟩

/-! The two ways on of a LINE (43_line.md R133), each by its own condition. -/

theorem lineAdvance_at_end (hend : s.cx = s.a2 ∧ s.cy = s.a3) :
    lineAdvance s = setPhase .idle s := if_pos hend

/-- Before the end point the walker goes on by `Advance`, whose point fits the registers. -/
theorem lineAdvance_before_end (hp : s.phase = .line) (hok : Safety.LineOk s)
    (hne : ¬(s.cx = s.a2 ∧ s.cy = s.a3)) : (lineAdvance s).phase = .line ∧
      walkerOf (lineAdvance s) = advance (segmentOf s) (walkerOf s) := by
  obtain ⟨-, k, hk, hwalk⟩ := hok
  have hlt := lt_lineN_of_not_at_end hk hwalk hne
  have hnext : advance (segmentOf s) (walkerOf s) = walkAt (segmentOf s) (k + 1) :=
    congrArg (advance (segmentOf s)) hwalk
  rw [lineAdvance, if_neg hne, hnext]
  exact ⟨hp, walkerOf_setWalker s (toInt_ofInt_of_between (walkAt_cx_between hlt))
    (toInt_ofInt_of_between (walkAt_cy_between hlt))⟩

/-- Moving on leaves what every cell reads as. -/
theorem surfRead_lineAdvance (s : State) (addr : Nat) :
    surfRead (lineAdvance s) addr = surfRead s addr :=
  (congrArg (surfRead · addr) (lineAdvance_frame s)).trans rfl

/-- The next state of a LINE run step (43_line.md R133): the point plotted, then the way on. -/
def afterLineRun (s : State) : State := lineAdvance (plot s.cx.toInt s.cy.toInt s)

theorem step_line (hm : Safety.unitToMove s) (hp : s.phase = .line) :
    step s = .next (afterLineRun (Safety.afterTurn s)) := by
  rw [step_of_unitToMove hm ((unitEnabled_iff s).2 (.inr (.inr hp)))]
  simp only [unitStep, afterTurn_phase, hp]
  rfl

/-- A LINE run step is its way on, which does not see the surface, and what the plot
leaves there. -/
theorem afterLineRun_eq (s : State) : afterLineRun s =
    { lineAdvance s with surf := (plot s.cx.toInt s.cy.toInt s).surf } := by
  rw [afterLineRun, plot_frame]
  exact surfaceFree_lineAdvance s _

/-- A LINE run step writes the walker, PHASE and the surface. -/
theorem afterLineRun_frame (s : State) : afterLineRun s =
    { s with cx := (afterLineRun s).cx, cy := (afterLineRun s).cy, err := (afterLineRun s).err,
             phase := (afterLineRun s).phase, surf := (afterLineRun s).surf } := by
  rw [afterLineRun_eq]
  exact congrArg (fun t : State => { t with surf := (plot s.cx.toInt s.cy.toInt s).surf })
    (lineAdvance_frame s)

theorem surfRead_afterLineRun (hon : onSurface s s.cx.toInt s.cy.toInt = true) (addr : Nat) :
    surfRead (afterLineRun s) addr =
      if (addr : Int) = s.cy.toInt * s.w.toNat + s.cx.toInt then pixelValue s.color
      else surfRead s addr := by
  rw [afterLineRun, surfRead_lineAdvance, surfRead_plot_of_onSurface hon]

theorem afterLineRun_surf_of_not_onSurface (hoff : ¬onSurface s s.cx.toInt s.cy.toInt = true) :
    (afterLineRun s).surf = s.surf := by
  rw [afterLineRun_eq]
  exact (plot_surf s _ _).trans (if_neg hoff)

theorem afterLineRun_at_end (hend : s.cx = s.a2 ∧ s.cy = s.a3) :
    (afterLineRun s).phase = .idle ∧ (afterLineRun s).cx = s.cx ∧ (afterLineRun s).cy = s.cy ∧
      (afterLineRun s).err = s.err := by
  rw [afterLineRun_eq, lineAdvance_at_end hend]
  exact ⟨rfl, rfl, rfl, rfl⟩

theorem afterLineRun_before_end (hp : s.phase = .line) (hok : Safety.LineOk s)
    (hne : ¬(s.cx = s.a2 ∧ s.cy = s.a3)) : (afterLineRun s).phase = .line ∧
      walkerOf (afterLineRun s) = advance (segmentOf s) (walkerOf s) := by
  rw [afterLineRun_eq]
  exact lineAdvance_before_end hp hok hne

end Sys2Proof.Machine

namespace Sys2Proof.Proofs

open Sys2Proof.Machine

/-- Settles O25: the first point, read as integers and written back, is the operands themselves. -/
theorem lineStartsAtItsFirstPoint : Obligations.LineStartsAtItsFirstPoint := by
  intro c a0 a1 a2 a3 s _
  rw [exec_line, startLine_eq, lineDX_eq_abs, lineDY_eq_neg_abs]
  rfl

/-- Settles O26: the step is `afterLineRun`; before the end point the walk goes on inside the box of
its end points, so `Advance` is exact in the 32-bit registers. -/
theorem lineRunStepVisitsOnePoint : Obligations.LineRunStepVisitsOnePoint := by
  rintro s dx dy sx sy e2 hm hp hok hdx hdy rfl rfl rfl
  obtain rfl : dx = lineDX (segmentOf s) := hdx.trans (lineDX_eq_abs (segmentOf s)).symm
  obtain rfl : dy = lineDY (segmentOf s) := hdy.trans (lineDY_eq_neg_abs (segmentOf s)).symm
  have hin := inBounds_iff s.w s.h s.cx.toInt s.cy.toInt
  refine ⟨advance_test (segmentOf s) (2 * s.err), _, step_line hm hp,
    afterLineRun_frame (Safety.afterTurn s), fun hon => ?inBounds, fun hoff => ?outOfBounds,
    ?atEnd, fun hne => ?beforeEnd⟩
  case inBounds => exact surfRead_afterLineRun (s := Safety.afterTurn s) (hin.2 hon)
  case outOfBounds =>
    exact afterLineRun_surf_of_not_onSurface (s := Safety.afterTurn s) (mt hin.1 hoff)
  case atEnd => exact afterLineRun_at_end (s := Safety.afterTurn s)
  case beforeEnd =>
    obtain ⟨hphase, hwalker⟩ := afterLineRun_before_end (s := Safety.afterTurn s) hp hok hne
    exact ⟨hphase, congrArg Walker.cx hwalker, congrArg Walker.cy hwalker,
      (congrArg Walker.err hwalker).trans (advance_err (segmentOf s) (walkerOf s))⟩

end Sys2Proof.Proofs
end

section
/-! `getp` (44_g1_binding.md R157): the cell it asks the host to read, the read, and the colour of a
POINT read back. -/

namespace Sys2Proof.Machine

/-- A host read of a cell in range takes its turn and notes what the cell reads as, no more. -/
theorem step_readCell {s : State} {addr : Nat} {rest : List Turn}
    (hs : s.turns = .host (.readCell addr) :: rest) (hlt : addr < cellCount s.w s.h) :
    step s = .next (observe (.cell addr (surfRead s addr)) (setTurns rest s)) := by
  rw [step, hs]
  exact if_pos hlt

variable {s : State} {a1 a2 : Word}

theorem hostGetp_of_onSurface (hon : onSurface s a1.toInt a2.toInt = true) :
    hostGetp s a1 a2 = some (.readCell (pixelAddr s.w a1.toInt a2.toInt)) := if_pos hon

theorem hostGetp_of_not_onSurface (hoff : ¬onSurface s a1.toInt a2.toInt = true) :
    hostGetp s a1 a2 = none := if_neg hoff

/-- The cell `getp` reads depends on the surface size only, which a POINT leaves. -/
theorem hostGetp_afterPoint (c : Color) (b0 b1 b2 b3 : Word) :
    hostGetp (afterPoint c b0 b1 b2 b3 s) a1 a2 = hostGetp s a1 a2 :=
  (congrArg (hostGetp · a1 a2) (afterPoint_frame c b0 b1 b2 b3 s)).trans rfl

/-- After a POINT on the surface its own cell reads as drawn. -/
theorem surfRead_afterPoint_pixelAddr {b2 b3 : Word} {c : Color}
    (hon : onSurface s a1.toInt a2.toInt = true) :
    surfRead (afterPoint c a1 a2 b2 b3 s) (pixelAddr s.w a1.toInt a2.toInt) = pixelValue c := by
  obtain ⟨hx, -, hy, -⟩ := (inBounds_iff s.w s.h a1.toInt a2.toInt).1 hon
  rw [surfRead_afterPoint_of_inBounds hon, if_pos (pixelAddr_cast hx hy)]

/-- What `getp` stores for a drawn cell is the colour drawn. -/
theorem getpValue_pixelValue (c : Color) : getpValue (pixelValue c) = 0#8 ++ c := by
  rw [getpValue_eq_append, pixelRgb_pixelValue]

end Sys2Proof.Machine

namespace Sys2Proof.Proofs

open Sys2Proof.Machine

/-- Settles O42: on the surface the cell is `pixelAddr`, which is in range for the host's read and
is the cell a POINT at the same operands draws. -/
theorem getpReadsThePackedColour : Obligations.GetpReadsThePackedColour := by
  intro s a1 a2 rest
  refine ⟨fun hin => ?onSurface, fun hout => ?offSurface⟩
  case onSurface =>
    have hon : onSurface s a1.toInt a2.toInt = true := (inBounds_iff _ _ _ _).2 hin
    obtain ⟨hx, hxw, hy, hyh⟩ := hin
    have hgetp := hostGetp_of_onSurface hon
    refine ⟨_, pixelAddr_cast hx hy, hgetp, fun hs => ?read, fun _ c => ?readBack⟩
    case read =>
      exact ⟨_, step_readCell hs (pixelAddr_lt_cellCount hx hxw hy hyh), rfl,
        getpValue_eq_append _⟩
    case readBack =>
      refine ⟨_, exec_point c a1 a2 0 0 s, (hostGetp_afterPoint c a1 a2 0 0).trans hgetp, ?_⟩
      rw [surfRead_afterPoint_pixelAddr hon, getpValue_pixelValue]
  case offSurface => exact hostGetp_of_not_onSurface (mt (inBounds_iff _ _ _ _).1 hout)

end Sys2Proof.Proofs
end

section
/-! IllegalCommand (60_exceptions.md R165, R166): the accept step raises it for the illegal codes,
with the word latched, and for no legal command; a machine that keeps the invariant stops with no
fault but the one FAULT stands for. -/

namespace Sys2Proof

variable {cmd : Command}

/-- A word with a legal code is a command. -/
theorem decode_of_legalOp (hop : cmdOp cmd = opPoint ∨ cmdOp cmd = opLine ∨ cmdOp cmd = opRect) :
    ∃ i, decode cmd = .ok i := by
  obtain hop | hop | hop := hop
  · exact ⟨_, decode_of_opPoint hop⟩
  · exact ⟨_, decode_of_opLine hop⟩
  · exact ⟨_, decode_of_opRect hop⟩

theorem decode_of_illegalOp
    (hop : cmdOp cmd ≠ opPoint ∧ cmdOp cmd ≠ opLine ∧ cmdOp cmd ≠ opRect) :
    decode cmd = .error (.illegalOp (cmdOp cmd)) := by
  obtain ⟨hpoint, hline, hrect⟩ := hop
  rw [decode, if_neg hpoint, if_neg hline, if_neg hrect]

end Sys2Proof

namespace Sys2Proof.Machine

/-! The accept step. -/

theorem acceptStep_of_decode {cmd : Command} {i : Instr} (hi : decode cmd = .ok i) (s : State) :
    acceptStep cmd s = exec i (clearOffer s) := by
  rw [acceptStep, hi]

theorem acceptStep_of_illegalOp {cmd : Command}
    (hop : cmdOp cmd ≠ opPoint ∧ cmdOp cmd ≠ opLine ∧ cmdOp cmd ≠ opRect) (s : State) :
    acceptStep cmd s = .next (acceptIllegal (cmdOp cmd) cmd (clearOffer s)) := by
  rw [acceptStep, decode_of_illegalOp hop]

theorem startRect_faultOp (s : State) : (startRect s).faultOp = s.faultOp :=
  (congrArg State.faultOp (startRect_frame s)).trans rfl

/-- No command, whatever its operands, enters FAULT or writes `FAULT_OP`. -/
theorem exec_raisesNothing (i : Instr) (s : State) :
    ∃ t, exec i s = .next t ∧ t.phase ≠ .fault ∧ t.faultOp = s.faultOp := by
  cases i with
  | point c a0 a1 a2 a3 =>
    exact ⟨_, exec_point c a0 a1 a2 a3 s, nofun,
      plot_faultOp (latch opPoint c a0 a1 a2 a3 s) a0.toInt a1.toInt⟩
  | line c a0 a1 a2 a3 => exact ⟨_, exec_line c a0 a1 a2 a3 s, nofun, rfl⟩
  | rect c a0 a1 a2 a3 =>
    refine ⟨startRect (latch opRect c a0 a1 a2 a3 s), rfl, ?_, startRect_faultOp _⟩
    obtain hp | hp := startRect_phase (latch opRect c a0 a1 a2 a3 s) <;> rw [hp] <;>
      exact nofun

/-! The steps that stop with a fault. -/

theorem acceptStep_ne_fault (cmd : Command) (s : State) (f : Fault) :
    acceptStep cmd s ≠ .fault f := by
  obtain ⟨_, -, hnext⟩ := acceptStep_writesBlindly cmd
  rw [hnext]
  exact nofun

theorem hostStep_ne_fault (h : HostStep) (s : State) (f : Fault) : hostStep h s ≠ .fault f := by
  cases h with
  | writeCell addr v =>
    rw [hostStep, hostWriteCell]
    split
    · split <;> exact nofun
    · exact nofun
  | readCell addr =>
    rw [hostStep, hostReadCell]
    split <;> exact nofun
  | offer | withdraw | readReg | reset => exact nofun

/-- The two faults of the unit's step: FAULT itself, and a RECT off the surface. -/
theorem unitStep_fault {s : State} {f : Fault} (hf : unitStep s = .fault f) :
    (s.phase = .fault ∧ f = .illegalCommand s.faultOp) ∨
    (s.phase = .rect ∧ onSurface s s.cx.toInt s.cy.toInt = false) := by
  obtain ⟨-, -, h⟩ | ⟨cmd, -, -, h⟩ | ⟨hp, h⟩ | ⟨-, h⟩ | ⟨hp, h⟩ := unitStep_cases s <;> rw [h] at hf
  · cases hf
  · exact absurd hf (acceptStep_ne_fault cmd s f)
  · obtain ⟨-, hr⟩ | ⟨hoff, -⟩ := rectRun_cases s
    · rw [hr] at hf; cases hf
    · exact .inr ⟨hp, hoff⟩
  · cases hf
  · exact .inl ⟨hp, (Host.Outcome.fault.inj hf).symm⟩

theorem afterTurn_of_turns_nil {s : State} (hs : s.turns = []) : Safety.afterTurn s = s := by
  cases s
  cases hs
  rfl

/-- Only the unit's own step stops with a fault: a passed turn and a host step do not. -/
theorem unitStep_fault_of_step_fault {s : State} {f : Fault} (hf : step s = .fault f) :
    unitStep (Safety.afterTurn s) = .fault f := by
  unfold step at hf
  split at hf
  case h_1 hs => rwa [afterTurn_of_turns_nil hs]
  case h_2 rest hs =>
    obtain ⟨-, hu⟩ | ⟨-, hu⟩ := unitTurn_cases (setTurns rest s) <;> rw [hu] at hf
    · rwa [Safety.afterTurn, hs]
    · cases hf
  case h_3 h rest _ => exact absurd hf (hostStep_ne_fault h (setTurns rest s) f)

theorem onSurface_of_rectOk {s : State} (hok : Safety.RectOk s) :
    onSurface s s.cx.toInt s.cy.toInt = true := by
  obtain ⟨-, -, hleft, hright, htop, hbottom⟩ := hok
  exact onSurface_of_inClip hleft hright htop hbottom

end Sys2Proof.Machine

namespace Sys2Proof.Proofs

open Sys2Proof.Machine

/-- Settles O8: an illegal code is answered by `acceptIllegal`, whose fields are those of the rule;
a legal one by `exec`, which raises nothing. -/
theorem illegalCodeRaisesIllegalCommand : Obligations.IllegalCodeRaisesIllegalCommand := by
  intro s cmd hm hp ho
  rw [step_accepts hm hp ho]
  refine ⟨fun hillegal => ?illegal, fun hlegal => ?legal⟩
  case illegal => exact ⟨_, acceptStep_of_illegalOp hillegal (Safety.afterTurn s), rfl, rfl⟩
  case legal =>
    obtain ⟨i, hi⟩ := decode_of_legalOp hlegal
    rw [acceptStep_of_decode hi]
    exact exec_raisesNothing i (clearOffer (Safety.afterTurn s))

/-- Settles O11: no command raises anything in its accept step, and a running RECT, the only other
step that can stop with a fault, is on the surface by the invariant. -/
theorem legalCommandsRaiseNothing : Obligations.LegalCommandsRaiseNothing := by
  refine ⟨fun i s _ => exec_raisesNothing i s, fun s f hok hf => ?_⟩
  obtain hfault | ⟨hp, hoff⟩ := unitStep_fault (unitStep_fault_of_step_fault hf)
  · exact hfault
  · exact absurd (onSurface_of_rectOk (hok.rectOk hp)) (Bool.eq_false_iff.1 hoff)

end Sys2Proof.Proofs
end

section
/-! FAULT is sticky (60_exceptions.md R172, R173): the unit has no step there, and no step of the
host but reset writes a register or the surface outside IDLE. -/

namespace Sys2Proof.Machine

variable {s t : State}

/-- Outside IDLE a host step other than reset writes the offer and what the host has read, no
more. -/
theorem hostStep_frame_of_busy {h : HostStep} (hbusy : s.phase ≠ .idle)
    (ht : hostStep h s = .next t) :
    h = .reset ∨ ∃ offer observed, t = { s with offer := offer, observed := observed } := by
  obtain ⟨cmd, -, rfl⟩ | ⟨-, rfl⟩ | ⟨_, _, -, hp, -⟩ | ⟨_, -, -, rfl⟩ | ⟨_, -, rfl⟩ | ⟨hreset, -⟩ :=
    hostStep_cases ht
  · exact .inr ⟨some cmd, s.observed, rfl⟩
  · exact .inr ⟨none, s.observed, rfl⟩
  · exact absurd hp hbusy
  · exact .inr ⟨s.offer, _, rfl⟩
  · exact .inr ⟨s.offer, _, rfl⟩
  · exact .inl hreset

theorem unitStep_ne_next_of_fault (hp : s.phase = .fault) : unitStep s ≠ .next t := by
  intro ht
  obtain ⟨_, hp', -⟩ | ⟨hp', -⟩ | ⟨hp', -⟩ := unitStep_next ht <;> cases hp.symm.trans hp'

/-- In FAULT a step that is not a reset writes the turns, the offer and what the host has read, no
more. -/
theorem step_frame_of_fault (hp : s.phase = .fault) (ht : step s = .next t) :
    (∃ rest, s.turns = .host .reset :: rest) ∨ ∃ turns offer observed,
      t = { s with turns := turns, offer := offer, observed := observed } := by
  obtain ⟨-, hu⟩ | ⟨rest, -, -, rfl⟩ | ⟨h, rest, hs, hh⟩ := step_next ht
  · exact absurd hu (unitStep_ne_next_of_fault hp)
  · exact .inr ⟨rest, s.offer, s.observed, rfl⟩
  · have hbusy : (setTurns rest s).phase ≠ .idle := by simp [hp]
    obtain rfl | ⟨offer, observed, rfl⟩ := hostStep_frame_of_busy hbusy hh
    · exact .inl ⟨rest, hs⟩
    · exact .inr ⟨rest, offer, observed, rfl⟩

theorem step_reset {rest : List Turn} (hs : s.turns = .host .reset :: rest) :
    step s = .next (resetUnit (setTurns rest s)) := by
  rw [step, hs]
  rfl

end Sys2Proof.Machine

namespace Sys2Proof.Proofs

open Sys2Proof.Machine

/-- Settles O49, by the frame of a step in FAULT. -/
theorem faultLastsUntilReset : Obligations.FaultLastsUntilReset := by
  refine fun s hp => ⟨fun t ht => ?sticky, fun rest hs => ?reset, fun addr rest hs hlt => ?read⟩
  case sticky =>
    refine (step_frame_of_fault hp ht).imp_right ?_
    rintro ⟨_, _, _, rfl⟩
    exact ⟨hp, rfl, rfl, rfl, rfl, rfl, rfl, rfl, rfl, rfl, rfl, rfl⟩
  case reset => exact ⟨_, step_reset hs, rfl, rfl⟩
  case read => exact ⟨_, step_readCell hs hlt, hp, rfl⟩

end Sys2Proof.Proofs
end

section
/-! What the host's surface write does in each phase (70_reset_and_hazards.md R191), and reset in
every state (R185). -/

namespace Sys2Proof.Machine

variable {s : State} {rest : List Turn}

theorem step_hostTurn {h : HostStep} (hs : s.turns = .host h :: rest) :
    step s = hostStep h (setTurns rest s) := by
  rw [step, hs]

theorem hostWriteCell_of_idle {addr : Nat} {v : Pixel} (hp : s.phase = .idle)
    (hlt : addr < cellCount s.w s.h) : hostWriteCell addr v s = .next (surfWrite addr v s) := by
  rw [hostWriteCell, if_pos hp, if_pos hlt]

theorem hostWriteCell_of_busy {addr : Nat} {v : Pixel} (hp : s.phase ≠ .idle) :
    hostWriteCell addr v s = .refused .hostWriteNotIdle :=
  if_neg hp

end Sys2Proof.Machine

namespace Sys2Proof.Proofs

open Sys2Proof.Machine

/-- Settles O39: in IDLE the step is `surfWrite` of an existing cell, outside IDLE it is refused. -/
theorem hostWritesOnlyInIdle : Obligations.HostWritesOnlyInIdle := by
  refine fun s addr v rest hs hlt => ⟨fun hp => ?idle, fun hp => ?busy⟩
  case idle =>
    have hstep : step s = .next (surfWrite addr v (setTurns rest s)) :=
      (step_hostTurn hs).trans (hostWriteCell_of_idle hp hlt)
    exact ⟨_, hstep, rfl, fun other => surfRead_surfWrite (setTurns rest s) addr other v⟩
  case busy => exact ⟨_, (step_hostTurn hs).trans (hostWriteCell_of_busy hp)⟩

/-- Settles O50, field by field from the rules of `resetUnit`; no phase is asked for. -/
theorem resetStepFromEveryState : Obligations.ResetStepFromEveryState := fun _ _ hs =>
  ⟨_, step_reset hs, resetUnit_phase _, resetUnit_faultOp _, resetUnit_w _, resetUnit_h _,
    resetUnit_surf _, resetUnit_turns _⟩

end Sys2Proof.Proofs
end

section
/-! Decode and encode (30_encoding.md R70 to R76): the six fields are the whole word, so no bit
of it is dropped in either direction. -/

namespace Sys2Proof

/-- A word is its six fields. -/
theorem packCommand_fields (cmd : Command) :
    packCommand (cmdOp cmd) (cmdColor cmd) (cmdA0 cmd) (cmdA1 cmd) (cmdA2 cmd) (cmdA3 cmd) = cmd :=
  calc cmd.extractLsb' 152 8 ++ cmd.extractLsb' 128 24 ++ cmd.extractLsb' 96 32 ++
        cmd.extractLsb' 64 32 ++ cmd.extractLsb' 32 32 ++ cmd.extractLsb' 0 32
    _ = cmd.extractLsb' 0 160 := by
      simp only [BitVec.extractLsb'_append_extractLsb'_eq_extractLsb']
    _ = cmd := BitVec.extractLsb'_eq_self

/-- Decoding a packed word of a legal code gives its fields back. -/
theorem decode_encode (i : Instr) : decode (encode i) = .ok i := by
  cases i with
  | point c a0 a1 a2 a3 => exact decode_encode_point c a0 a1 a2 a3
  | line c a0 a1 a2 a3 =>
    rw [decode_of_opLine (Laws.OpcodeField.line c a0 a1 a2 a3)]
    simp only [encode, cmdColor_packCommand, cmdA0_packCommand, cmdA1_packCommand,
      cmdA2_packCommand, cmdA3_packCommand]
  | rect c a0 a1 a2 a3 =>
    rw [decode_of_opRect (Laws.OpcodeField.rect c a0 a1 a2 a3)]
    simp only [encode, cmdColor_packCommand, cmdA0_packCommand, cmdA1_packCommand,
      cmdA2_packCommand, cmdA3_packCommand]

variable {cmd : Command}

/-- A word that decodes is the word of its command. -/
theorem encode_of_decode {i : Instr} (hi : decode cmd = .ok i) : encode i = cmd := by
  have hfields := packCommand_fields cmd
  obtain ⟨hop, hd⟩ | ⟨hop, hd⟩ | ⟨hop, hd⟩ | ⟨-, -, -, hd⟩ := decode_cases cmd <;> rw [hd] at hi <;>
    cases hi <;> rwa [hop] at hfields

/-- The decoder refuses a word, naming its code, exactly when the code is no command's. -/
theorem decode_illegalOp_iff : decode cmd = .error (.illegalOp (cmdOp cmd)) ↔
    cmdOp cmd ≠ opPoint ∧ cmdOp cmd ≠ opLine ∧ cmdOp cmd ≠ opRect := by
  refine ⟨fun herr => ?_, decode_of_illegalOp⟩
  by_contra hlegal
  obtain ⟨i, hi⟩ := decode_of_legalOp (cmd := cmd) (by tauto)
  cases hi.symm.trans herr

/-- The codes that are no command's, as ranges (30_encoding.md R76). -/
theorem illegalOp_iff_toNat (op : OpCode) :
    (op ≠ opPoint ∧ op ≠ opLine ∧ op ≠ opRect) ↔ op.toNat ≤ 0x0B ∨ 0x0F ≤ op.toNat := by
  unfold opPoint opLine opRect
  bv_omega

end Sys2Proof

namespace Sys2Proof.Proofs

/-- Settles O1: each direction is by the code of the command, the fields being the whole word. -/
theorem encodeAndDecodeAgree : Obligations.EncodeAndDecodeAgree :=
  ⟨decode_encode, fun _ _ => encode_of_decode⟩

/-- Settles O3: the ranges are the codes that are no command's. -/
theorem everyOtherCodeIsIllegal : Obligations.EveryOtherCodeIsIllegal := fun cmd =>
  (illegalOp_iff_toNat (cmdOp cmd)).symm.trans decode_illegalOp_iff.symm

/-- Settles O4: the decoder, run on the four words. -/
theorem specWordsDecodeToTheirCommands : Obligations.SpecWordsDecodeToTheirCommands :=
  ⟨by decide, by decide, by decide, by decide⟩

end Sys2Proof.Proofs
end

section
/-! The canonical byte form (30_encoding.md R71): bit `i` of the word that a byte listing reads as
is bit `i % 8` of the byte that stands `i / 8` places before the last. -/

namespace Sys2Proof

theorem wordOfBytes_append (bytes : List Byte) (b : Byte) :
    wordOfBytes (bytes ++ [b]) = (wordOfBytes bytes <<< 8) ||| b.setWidth 160 := by
  simp only [wordOfBytes, List.foldl_append, List.foldl_cons, List.foldl_nil]

/-- Where a bit of a listing's word stands in the listing. -/
theorem getLsbD_wordOfBytes (bytes : List Byte) {i : Nat} (hi : i < 160) :
    (wordOfBytes bytes).getLsbD i = ((bytes.reverse[i / 8]?).getD 0).getLsbD (i % 8) := by
  induction bytes using List.reverseRecOn generalizing i with
  | nil => simp [wordOfBytes]
  | append_singleton bytes b ih =>
    rw [wordOfBytes_append, BitVec.getLsbD_or, BitVec.getLsbD_shiftLeft, BitVec.getLsbD_setWidth,
      List.reverse_append]
    by_cases hlow : i < 8
    · have hdiv : i / 8 = 0 := by omega
      simp [hlow, hi, hdiv, Nat.mod_eq_of_lt hlow]
    · obtain ⟨j, rfl⟩ := Nat.exists_eq_add_of_le (not_lt.1 hlow)
      have hdiv : (8 + j) / 8 = j / 8 + 1 := by omega
      simp [hi, hdiv, ih (i := j) (by omega)]

/-- Byte `k` of the word of 20 bytes is the `k`-th of them. -/
theorem extractLsb'_wordOfBytes {bytes : List Byte} (hlen : bytes.length = 20) {k : Nat}
    (hk : k < 20) : (wordOfBytes bytes).extractLsb' (152 - 8 * k) 8 = bytes[k] := by
  ext j hj
  have hdiv : (152 - 8 * k + j) / 8 = 19 - k := by omega
  have hmod : (152 - 8 * k + j) % 8 = j := by omega
  rw [BitVec.getElem_extractLsb', getLsbD_wordOfBytes bytes (by omega), hdiv, hmod,
    List.getElem?_reverse (by omega)]
  have hback : bytes.length - 1 - (19 - k) = k := by omega
  rw [hback, List.getElem?_eq_getElem (by omega), Option.getD_some, BitVec.getLsbD_eq_getElem hj]

@[simp] theorem length_bytesOfCommand (cmd : Command) : (bytesOfCommand cmd).length = 20 := by
  simp [bytesOfCommand]

theorem getElem_bytesOfCommand (cmd : Command) {k : Nat} (hk : k < (bytesOfCommand cmd).length) :
    (bytesOfCommand cmd)[k] = cmd.extractLsb' (152 - 8 * k) 8 := by
  simp [bytesOfCommand]

/-- Writing 20 bytes as a word and listing the word again gives the bytes. -/
theorem bytesOfCommand_wordOfBytes {bytes : List Byte} (hlen : bytes.length = 20) :
    bytesOfCommand (wordOfBytes bytes) = bytes :=
  List.ext_getElem (by rw [length_bytesOfCommand, hlen]) fun k _ hk => by
    rw [getElem_bytesOfCommand, extractLsb'_wordOfBytes hlen (hlen ▸ hk)]

/-- Listing a word and writing the bytes as a word again gives the word. -/
theorem wordOfBytes_bytesOfCommand (cmd : Command) : wordOfBytes (bytesOfCommand cmd) = cmd := by
  ext i hi
  have hlen := length_bytesOfCommand cmd
  have hpos : (152 - 8 * (20 - 1 - i / 8)) + i % 8 = i := by omega
  rw [← BitVec.getLsbD_eq_getElem, getLsbD_wordOfBytes _ hi, List.getElem?_reverse (by omega),
    List.getElem?_eq_getElem (by omega), Option.getD_some, getElem_bytesOfCommand,
    BitVec.getLsbD_extractLsb', hlen, hpos, BitVec.getLsbD_eq_getElem hi]
  simp [Nat.mod_lt i (by decide : 8 > 0)]

theorem commandOfBytes_of_length {bytes : List Byte} (hlen : bytes.length = 20) :
    commandOfBytes bytes = .ok (wordOfBytes bytes) := if_pos hlen

theorem commandOfBytes_of_length_ne {bytes : List Byte} (hlen : bytes.length ≠ 20) :
    commandOfBytes bytes = .error (.notTwentyBytes bytes.length) := if_neg hlen

end Sys2Proof

namespace Sys2Proof.Proofs

/-- Settles O5: the two maps are inverse, byte by byte in one direction and bit by bit in the
other. -/
theorem byteFormRoundTrip : Obligations.ByteFormRoundTrip := by
  refine ⟨fun cmd => ⟨length_bytesOfCommand cmd, fun _ => getElem_bytesOfCommand cmd, ?_⟩,
    fun bytes hlen => ⟨_, commandOfBytes_of_length hlen, bytesOfCommand_wordOfBytes hlen⟩,
    fun _ => commandOfBytes_of_length_ne⟩
  rw [commandOfBytes_of_length (length_bytesOfCommand cmd), wordOfBytes_bytesOfCommand]

end Sys2Proof.Proofs
end

section
/-! Drawing on the surface (20_memory.md R52; 40_command_cycle.md section 6): the last write to a
cell wins, so what is drawn is told by the set of the points. -/

namespace Sys2Proof.Machine

/-- Of two writes to one cell the second alone counts. -/
theorem write_write_same (m : Memory) (addr : Nat) (u v : Pixel) :
    (m.write addr u).write addr v = m.write addr v := by
  induction m with
  | nil => simp [Memory.write]
  | cons p rest ih =>
    obtain ⟨b, x⟩ := p
    obtain hlt | rfl | hgt := lt_trichotomy addr b
    · simp [Memory.write, hlt]
    · simp [Memory.write]
    · simp [Memory.write, hgt.not_gt, hgt.ne', ih]

variable {w h : BitVec 16} {c : Color} {points points' : List (Int × Int)} {m : Memory}

@[simp] theorem paint_nil (w : BitVec 16) (c : Color) (m : Memory) : paint w c [] m = m := rfl

theorem paint_singleton (w : BitVec 16) (c : Color) (p : Int × Int) (m : Memory) :
    paint w c [p] m = m.write (pixelAddr w p.1 p.2) (pixelValue c) := rfl

theorem paint_append (w : BitVec 16) (c : Color) (points points' : List (Int × Int)) (m : Memory) :
    paint w c (points ++ points') m = paint w c points' (paint w c points m) :=
  List.foldl_append

theorem wf_paint (hm : m.wf) : (paint w c points m).wf := by
  induction points generalizing m with
  | nil => exact hm
  | cons p rest ih => exact ih (wf_write hm _ _)

/-- A cell reads as drawn exactly where one of the points has it as its cell. -/
theorem read_paint (w : BitVec 16) (c : Color) (points : List (Int × Int)) (m : Memory)
    (addr : Nat) : (paint w c points m).read? addr =
      if ∃ p ∈ points, addr = pixelAddr w p.1 p.2 then some (pixelValue c)
      else m.read? addr := by
  induction points using List.reverseRecOn with
  | nil => simp
  | append_singleton points p ih =>
    rw [paint_append, paint_singleton, read_write, ih, ← ite_or]
    refine if_congr ?_ rfl rfl
    simp only [List.mem_append, List.mem_singleton, or_and_right, exists_or, exists_eq_left,
      or_comm]

/-- Lists of the same points leave the same surface. -/
theorem paint_congr (hm : m.wf) (hpoints : ∀ p, p ∈ points ↔ p ∈ points') :
    paint w c points m = paint w c points' m :=
  wf_ext (wf_paint hm) (wf_paint hm) fun addr => by simp only [read_paint, hpoints]

/-- Drawing the same points again changes nothing. -/
theorem paint_paint (hm : m.wf) : paint w c points (paint w c points m) = paint w c points m := by
  rw [← paint_append]
  exact paint_congr hm fun p => by rw [List.mem_append, or_self]

/-- Plotting one pixel is drawing it where it is in bounds. -/
theorem plot_surf_eq_paint (x y : Int) (s : State) : (plot x y s).surf =
    paint s.w s.color ([(x, y)].filter fun p => inBounds s.w s.h p.1 p.2) s.surf := by
  rw [plot_surf, onSurface]
  cases hin : inBounds s.w s.h x y <;> simp [hin, paint_singleton]

@[simp] theorem afterPoint_w (c : Color) (a0 a1 a2 a3 : Word) (s : State) :
    (afterPoint c a0 a1 a2 a3 s).w = s.w :=
  (congrArg State.w (afterPoint_frame c a0 a1 a2 a3 s)).trans rfl

@[simp] theorem afterPoint_h (c : Color) (a0 a1 a2 a3 : Word) (s : State) :
    (afterPoint c a0 a1 a2 a3 s).h = s.h :=
  (congrArg State.h (afterPoint_frame c a0 a1 a2 a3 s)).trans rfl

/-- The surface after a POINT is the old one with its points drawn. -/
theorem afterPoint_surf (c : Color) (a0 a1 a2 a3 : Word) (s : State) :
    (afterPoint c a0 a1 a2 a3 s).surf =
      paint s.w c (draws s.w s.h (.point c a0 a1 a2 a3)) s.surf := by
  refine (plot_surf_eq_paint a0.toInt a1.toInt (latch opPoint c a0 a1 a2 a3 s)).trans ?_
  rw [draws, List.filter_singleton, cond_eq_ite]
  rfl

/-- A POINT after a POINT at the same coordinates: the second alone. -/
theorem afterPoint_afterPoint (c d : Color) (a0 a1 a2 a3 : Word) (s : State) :
    afterPoint d a0 a1 a2 a3 (afterPoint c a0 a1 a2 a3 s) = afterPoint d a0 a1 a2 a3 s := by
  have hsurf : (afterPoint d a0 a1 a2 a3 (afterPoint c a0 a1 a2 a3 s)).surf =
      (afterPoint d a0 a1 a2 a3 s).surf := by
    by_cases hin : inBounds s.w s.h a0.toInt a1.toInt = true
    · simp only [afterPoint_surf, afterPoint_w, afterPoint_h, draws_point_of_inBounds hin,
        paint_singleton, write_write_same]
    · simp only [afterPoint_surf, afterPoint_w, afterPoint_h, draws_point_of_not_inBounds hin,
        paint_nil]
  rw [afterPoint_frame d, hsurf, afterPoint_frame c, afterPoint_frame d a0 a1 a2 a3 s]

end Sys2Proof.Machine

namespace Sys2Proof.Proofs

open Sys2Proof.Machine

/-- Settles O46: every cell reads as the set of points says, and canonical surfaces with equal reads
are equal. -/
theorem paintDependsOnlyOnTheSet : Obligations.PaintDependsOnlyOnTheSet :=
  fun _ _ _ _ _ hm hpoints => ⟨paint_congr hm hpoints, paint_paint hm⟩

/-- Settles O18: the second POINT writes the cell, the latches and PHASE again. -/
theorem pointTwiceKeepsTheSecondColour : Obligations.PointTwiceKeepsTheSecondColour :=
  fun c d a0 a1 a2 a3 s _ => ⟨_, _, _, exec_point c a0 a1 a2 a3 s, exec_point d a0 a1 a2 a3 _,
    exec_point d a0 a1 a2 a3 s, afterPoint_afterPoint c d a0 a1 a2 a3 s⟩

/-- Settles O35, by the rule of what a cell reads as after one write. -/
theorem surfWriteChangesOneCell : Obligations.SurfWriteChangesOneCell :=
  fun s addr v _ => ⟨rfl, fun other => surfRead_surfWrite s addr other v⟩

end Sys2Proof.Proofs
end

section
/-! The points of a RECT (42_rect.md R116, R119): the clipped rectangle row by row. The `k`-th point
is in row `k / n` and column `k % n`, where `n` is the width. -/

namespace Sys2Proof.Machine

/-- The number of points of a clipped rectangle; zero where an edge difference is negative. -/
def rectCount (c : Clip) : Nat := (c.right - c.left).toNat * (c.bottom - c.top).toNat

/-- The `k`-th point of a clipped rectangle. -/
def rectPointAt (c : Clip) (k : Nat) : Int × Int :=
  (c.left + (k % (c.right - c.left).toNat : Nat), c.top + (k / (c.right - c.left).toNat : Nat))

/-- Listing by row and then by column is listing by quotient and remainder. -/
theorem flatMap_range_map_range {α : Type} (f : Nat → Nat → α) (rows columns : Nat) :
    ((List.range rows).flatMap fun j => (List.range columns).map fun i => f i j) =
      (List.range (columns * rows)).map fun k => f (k % columns) (k / columns) := by
  induction rows with
  | zero => simp
  | succ rows ih =>
    rw [List.range_succ, List.flatMap_append, ih, Nat.mul_succ, List.range_add, List.map_append,
      List.map_map, List.flatMap_singleton]
    refine congrArg _ (List.map_congr_left fun i hi => ?_)
    have hi := List.mem_range.1 hi
    simp only [Function.comp_apply, Nat.mul_add_mod, Nat.mod_eq_of_lt hi,
      Nat.mul_add_div (Nat.zero_lt_of_lt hi), Nat.div_eq_of_lt hi, add_zero]

variable {c : Clip} {k : Nat}

theorem rectCount_eq_zero_of_empty (hempty : ¬clipNonEmpty c = true) : rectCount c = 0 := by
  rw [clipNonEmpty_iff] at hempty
  rw [rectCount, Nat.mul_eq_zero]
  omega

theorem rectCount_pos (hne : clipNonEmpty c = true) : 0 < rectCount c := by
  rw [clipNonEmpty_iff] at hne
  exact Nat.mul_pos (by omega) (by omega)

theorem rectPoints_eq_map (c : Clip) :
    rectPoints c = (List.range (rectCount c)).map (rectPointAt c) := by
  by_cases hne : clipNonEmpty c = true
  · rw [rectPoints, if_pos hne]
    exact flatMap_range_map_range (fun i j : Nat => (c.left + i, c.top + j)) _ _
  · rw [rectPoints, if_neg hne, rectCount_eq_zero_of_empty hne, List.range_zero, List.map_nil]

theorem length_rectPoints (c : Clip) : (rectPoints c).length = rectCount c := by
  rw [rectPoints_eq_map, List.length_map, List.length_range]

/-- The points of a clipped rectangle are those between its edges. -/
theorem mem_rectPoints {x y : Int} : (x, y) ∈ rectPoints c ↔
    (c.left ≤ x ∧ x < c.right) ∧ c.top ≤ y ∧ y < c.bottom := by
  by_cases hne : clipNonEmpty c = true
  · simp only [rectPoints, if_pos hne, List.mem_flatMap, List.mem_map, List.mem_range,
      Prod.mk.injEq]
    constructor
    · rintro ⟨j, hj, i, hi, rfl, rfl⟩
      omega
    · rintro ⟨⟨hl, hr⟩, ht, hb⟩
      exact ⟨(y - c.top).toNat, by omega, (x - c.left).toNat, by omega, by omega, by omega⟩
  · rw [rectPoints, if_neg hne]
    rw [clipNonEmpty_iff] at hne
    simp only [List.not_mem_nil, false_iff]
    omega

theorem rectPointAt_mem (hk : k < rectCount c) : rectPointAt c k ∈ rectPoints c := by
  rw [rectPoints_eq_map]
  exact List.mem_map_of_mem (List.mem_range.2 hk)

/-- A position between the edges is one of the points, by its number. -/
theorem exists_rectPointAt {x y : Int} (hl : c.left ≤ x) (hr : x < c.right) (ht : c.top ≤ y)
    (hb : y < c.bottom) : ∃ k, k < rectCount c ∧ rectPointAt c k = (x, y) := by
  have hmem : (x, y) ∈ rectPoints c := mem_rectPoints.2 ⟨⟨hl, hr⟩, ht, hb⟩
  rw [rectPoints_eq_map, List.mem_map] at hmem
  simpa only [List.mem_range] using hmem

theorem rectPointAt_zero (c : Clip) : rectPointAt c 0 = (c.left, c.top) := by
  simp [rectPointAt]

/-- The point in row `j` and column `i`. -/
theorem rectPointAt_mul_add {i : Nat} (hi : i < (c.right - c.left).toNat) (j : Nat) :
    rectPointAt c ((c.right - c.left).toNat * j + i) = (c.left + i, c.top + j) := by
  rw [rectPointAt, Nat.mul_add_mod, Nat.mod_eq_of_lt hi, Nat.mul_add_div (Nat.zero_lt_of_lt hi),
    Nat.div_eq_of_lt hi, add_zero]

/-- The next point: along the row, or at the start of the next row (42_rect.md R118). -/
theorem rectPointAt_succ (hwidth : c.left < c.right) (k : Nat) : rectPointAt c (k + 1) =
    if (rectPointAt c k).1 + 1 < c.right then ((rectPointAt c k).1 + 1, (rectPointAt c k).2)
    else (c.left, (rectPointAt c k).2 + 1) := by
  have hn : 0 < (c.right - c.left).toNat := by omega
  obtain ⟨i, j, hi, rfl⟩ : ∃ i j, i < (c.right - c.left).toNat ∧
      k = (c.right - c.left).toNat * j + i :=
    ⟨_, _, Nat.mod_lt k hn, (Nat.div_add_mod k _).symm⟩
  rw [rectPointAt_mul_add hi]
  split
  · rw [add_assoc, rectPointAt_mul_add (by omega)]
    push_cast
    rw [add_assoc]
  · have hlast : (c.right - c.left).toNat * j + i + 1 = (c.right - c.left).toNat * (j + 1) + 0 := by
      rw [Nat.mul_succ]; omega
    rw [hlast, rectPointAt_mul_add hn]
    push_cast
    rw [add_zero, add_assoc]

/-- A number counts a point exactly where its row is above the bottom edge. -/
theorem lt_rectCount_iff (hwidth : c.left < c.right) :
    k < rectCount c ↔ (rectPointAt c k).2 < c.bottom := by
  have hdiv := Nat.div_lt_iff_lt_mul (x := k) (y := (c.bottom - c.top).toNat)
    (k := (c.right - c.left).toNat) (by omega)
  rw [rectCount, Nat.mul_comm, ← hdiv, Int.lt_toNat]
  exact lt_sub_iff_add_lt'

/-- The points are in strict row order. -/
theorem rectPoints_pairwise (c : Clip) :
    (rectPoints c).Pairwise fun p q => p.2 < q.2 ∨ (p.2 = q.2 ∧ p.1 < q.1) := by
  rw [rectPoints_eq_map, List.pairwise_map]
  refine List.pairwise_lt_range.imp fun {i j} hij => ?_
  have hdiv := Nat.div_le_div_right (c := (c.right - c.left).toNat) hij.le
  have hi := Nat.div_add_mod i (c.right - c.left).toNat
  have hj := Nat.div_add_mod j (c.right - c.left).toNat
  obtain hrow | hrow := hdiv.lt_or_eq
  · exact .inl (Int.add_lt_add_left (Int.ofNat_lt.2 hrow) _)
  · rw [hrow] at hi
    have hcolumn : i % (c.right - c.left).toNat < j % (c.right - c.left).toNat := by omega
    exact .inr ⟨by rw [rectPointAt, rectPointAt, hrow],
      Int.add_lt_add_left (Int.ofNat_lt.2 hcolumn) _⟩

/-! The clip of a RECT's operands (42_rect.md R116). -/

section Operands

variable (w h : BitVec 16) (a0 a1 a2 a3 : Word)

theorem draws_rect (color : Color) : draws w h (.rect color a0 a1 a2 a3) =
    rectPoints (clipOfOperands w h a0 a1 a2 a3) := rfl

theorem runStepCount_rect (color : Color) : runStepCount w h (.rect color a0 a1 a2 a3) =
    rectCount (clipOfOperands w h a0 a1 a2 a3) := by
  simp only [runStepCount]
  split
  · rename_i hne
    rw [clipNonEmpty_iff] at hne
    exact Int.toNat_mul (by omega) (by omega)
  · rename_i hempty
    exact (rectCount_eq_zero_of_empty hempty).symm

/-- The clipped edges lie on the surface, so the points are at most its cells. -/
theorem rectCount_le_cellCount : rectCount (clipOfOperands w h a0 a1 a2 a3) ≤ cellCount w h := by
  simp only [rectCount, cellCount, clipOfOperands, clipRect]
  exact Nat.mul_le_mul (by omega) (by omega)

/-- A point is between the clipped edges exactly where it is in the requested rectangle and on the
surface. -/
theorem mem_draws_rect (color : Color) (x y : Int) :
    (x, y) ∈ draws w h (.rect color a0 a1 a2 a3) ↔
      (a0.toInt ≤ x ∧ x < a0.toInt + a2.toInt ∧ a1.toInt ≤ y ∧ y < a1.toInt + a3.toInt) ∧
      (0 ≤ x ∧ x < w.toNat ∧ 0 ≤ y ∧ y < h.toNat) := by
  rw [draws_rect, mem_rectPoints]
  simp only [clipOfOperands, clipRect, max_le_iff, lt_min_iff]
  tauto

variable {w h a0 a1 a2 a3}

/-- The empty rectangles of 42_rect.md R120. -/
theorem clip_empty (hempty : a2.toInt ≤ 0 ∨ a3.toInt ≤ 0 ∨ (w.toNat : Int) ≤ a0.toInt ∨
      (h.toNat : Int) ≤ a1.toInt ∨ a0.toInt + a2.toInt ≤ 0 ∨ a1.toInt + a3.toInt ≤ 0) :
    ¬clipNonEmpty (clipOfOperands w h a0 a1 a2 a3) = true := by
  rw [clipNonEmpty_iff]
  simp only [clipOfOperands, clipRect]
  omega

theorem draws_rect_of_empty (color : Color)
    (hempty : ¬clipNonEmpty (clipOfOperands w h a0 a1 a2 a3) = true) :
    draws w h (.rect color a0 a1 a2 a3) = [] := if_neg hempty

end Operands

end Sys2Proof.Machine

namespace Sys2Proof.Proofs

open Sys2Proof.Machine

/-- Settles O21: the edges are by definition those of the rule, and the ranges are those of 32-bit
operands and 16-bit sizes. -/
theorem rectEdgesLieOnTheSurface : Obligations.RectEdgesLieOnTheSurface := by
  intro s l r t b hclip
  have hne := clipNonEmpty_iff (clipOf s)
  obtain ⟨rfl, rfl, rfl, rfl⟩ := Clip.mk.inj hclip
  have h0 := word_toInt_range s.a0
  have h1 := word_toInt_range s.a1
  have h2 := word_toInt_range s.a2
  have h3 := word_toInt_range s.a3
  have hw := s.w.isLt
  have hh := s.h.isLt
  refine ⟨rfl, rfl, rfl, rfl, hne, ?_⟩
  rw [hne]
  simp only [clipOf, clipRect]
  omega

/-- Settles O22: membership by the edges, the order and the number by quotient and remainder. -/
theorem rectPointsAreTheIntersection : Obligations.RectPointsAreTheIntersection := by
  intro w h c a0 a1 a2 a3
  rw [runStepCount_rect]
  exact ⟨mem_draws_rect w h a0 a1 a2 a3 c, rectPoints_pairwise _, length_rectPoints _,
    rectCount_le_cellCount w h a0 a1 a2 a3⟩

/-- Settles O23: each of the cases leaves no room between two opposite edges. -/
theorem emptyRectangleFinishesAtOnce : Obligations.EmptyRectangleFinishesAtOnce := by
  intro c a0 a1 a2 a3 s _ hcase
  have hempty := clip_empty hcase
  exact ⟨draws_rect_of_empty c hempty, _, exec_rect_of_empty hempty, rfl, rfl⟩

end Sys2Proof.Proofs
end

section
/-! The walk of a LINE against its closed form (43_line.md R136), and its properties (R138 to R145).
Along the major axis the walk steps every time, so the points are pairwise different; along both
axes it only moves toward the end point, so the points inside the surface follow each other. -/

namespace Sys2Proof.Machine

variable {g : Segment} {k : Nat}

/-! The closed form. -/

/-- A line without an extent in x or y has no step. -/
theorem eq_zero_of_le_lineN (hk : k ≤ lineN g) (hx : lineDX g = 0) (hy : lineDY g = 0) : k = 0 := by
  have hN := lineN_eq_max g
  omega

theorem visitAt_zero (g : Segment) : visitAt g 0 = (g.x1, g.y1) := rfl

/-- Every visited point is the closed form's: the rounded quotient counts the minor steps. -/
theorem visitAt_eq_closedVisit (hk : k ≤ lineN g) : visitAt g k = closedVisit g k := by
  have hdx := lineDX_nonneg g
  have hdy := lineDY_nonpos g
  simp only [closedVisit]
  split
  case isTrue hyMajor => rw [visitAt, walkAt_of_yMajor (by omega) hyMajor.le]; rfl
  case isFalse hxMajor =>
    split
    case isTrue hzero =>
      obtain rfl := eq_zero_of_le_lineN hk hzero (by omega)
      exact visitAt_zero g
    case isFalse hpos => rw [visitAt, walkAt_of_xMajor (by omega) (by omega)]; rfl

/-! Along the major axis. -/

/-- Where x is the major axis, x steps every time. -/
theorem walkAt_cx_of_xMajor (hxy : -lineDY g ≤ lineDX g) (hk : k ≤ lineN g) :
    (walkAt g k).cx = g.x1 + lineSX g * k := by
  obtain hzero | hpos := (lineDX_nonneg g).eq_or_lt
  · have hdy := lineDY_nonpos g
    obtain rfl := eq_zero_of_le_lineN hk hzero.symm (by omega)
    exact (Int.add_zero _).symm.trans (by rw [Nat.cast_zero, mul_zero]; rfl)
  · rw [walkAt_of_xMajor hpos hxy]
    rfl

/-- Where y is the major axis, y steps every time. -/
theorem walkAt_cy_of_yMajor (hyx : lineDX g ≤ -lineDY g) (hk : k ≤ lineN g) :
    (walkAt g k).cy = g.y1 + lineSY g * k := by
  obtain hzero | hpos := (Int.neg_nonneg_of_nonpos (lineDY_nonpos g)).eq_or_lt
  · have hdx := lineDX_nonneg g
    obtain rfl := eq_zero_of_le_lineN hk (by omega) (by omega)
    exact (Int.add_zero _).symm.trans (by rw [Nat.cast_zero, mul_zero]; rfl)
  · rw [walkAt_of_yMajor hpos hyx]
    rfl

theorem lineSX_eq (g : Segment) : lineSX g = 1 ∨ lineSX g = -1 := by
  unfold lineSX
  split <;> simp

theorem lineSY_eq (g : Segment) : lineSY g = 1 ∨ lineSY g = -1 := by
  unfold lineSY
  split <;> simp

/-- No point is visited twice: the major coordinate tells the step. -/
theorem visitAt_injOn (g : Segment) : Set.InjOn (visitAt g) {k | k ≤ lineN g} := by
  intro j hj k hk heq
  obtain ⟨hx, hy⟩ := Prod.mk.inj heq
  obtain hxy | hyx := le_total (-lineDY g) (lineDX g)
  · rw [walkAt_cx_of_xMajor hxy hj, walkAt_cx_of_xMajor hxy hk] at hx
    obtain hs | hs := lineSX_eq g <;> rw [hs] at hx <;> omega
  · rw [walkAt_cy_of_yMajor hyx hj, walkAt_cy_of_yMajor hyx hk] at hy
    obtain hs | hs := lineSY_eq g <;> rw [hs] at hy <;> omega

theorem visitAt_lineN (g : Segment) : visitAt g (lineN g) = (g.x2, g.y2) :=
  Prod.ext walkAt_lineN.1 walkAt_lineN.2

theorem visitAt_ne_end (hk : k < lineN g) : visitAt g k ≠ (g.x2, g.y2) := fun heq =>
  hk.ne (visitAt_injOn g hk.le (le_refl (lineN g)) (heq.trans (visitAt_lineN g).symm))

theorem length_lineVisits (g : Segment) : (lineVisits g).length = lineN g + 1 := by
  rw [lineVisits, List.length_map, List.length_range]

theorem mem_lineVisits {p : Int × Int} : p ∈ lineVisits g ↔ ∃ k ≤ lineN g, visitAt g k = p := by
  simp only [lineVisits, List.mem_map, List.mem_range, Nat.lt_succ_iff]

theorem lineVisits_nodup (g : Segment) : (lineVisits g).Nodup :=
  List.nodup_range.map_on fun _ hj _ hk =>
    visitAt_injOn g (Nat.lt_succ_iff.1 (List.mem_range.1 hj))
      (Nat.lt_succ_iff.1 (List.mem_range.1 hk))

/-! One step (43_line.md R139). -/

theorem walkAt_succ_cx (g : Segment) (k : Nat) : (walkAt g (k + 1)).cx = (walkAt g k).cx ∨
    (walkAt g (k + 1)).cx = (walkAt g k).cx + lineSX g := by
  simp only [walkAt, advance]
  split
  · exact .inr rfl
  · exact .inl rfl

theorem walkAt_succ_cy (g : Segment) (k : Nat) : (walkAt g (k + 1)).cy = (walkAt g k).cy ∨
    (walkAt g (k + 1)).cy = (walkAt g k).cy + lineSY g := by
  simp only [walkAt, advance]
  split
  · exact .inr rfl
  · exact .inl rfl

/-- A coordinate that stays, or moves by its step to a value between those of the end points, gets
no farther from its end value. -/
theorem dist_le_of_step {p q x x' : Int} (hstep : x' = x ∨ x' = x + if p < q then 1 else -1)
    (hbetween : min p q ≤ x' ∧ x' ≤ max p q) : |q - x'| ≤ |q - x| := by
  rw [Int.abs_eq_natAbs, Int.abs_eq_natAbs]
  split at hstep <;> omega

/-! The range of `ERR` (43_line.md R142). -/

theorem walkAt_err_range (hk : k ≤ lineN g) : 3 * lineDY g - 2 ≤ 2 * (walkAt g k).err ∧
    2 * (walkAt g k).err ≤ 3 * lineDX g + 2 := by
  have hdx := lineDX_nonneg g
  have hdy := lineDY_nonpos g
  obtain hxy | hyx := le_total (-lineDY g) (lineDX g)
  · obtain hzero | hpos := hdx.eq_or_lt
    · obtain rfl := eq_zero_of_le_lineN hk hzero.symm (by omega)
      simp only [walkAt, lineStart]
      omega
    · obtain ⟨hlow, hhigh⟩ := (minorSteps_eq_iff (a := -lineDY g) (k := k) hpos).1 rfl
      rw [walkAt_of_xMajor hpos hxy]
      simp only [walkerAfter]
      constructor <;> linarith
  · obtain hzero | hpos := (Int.neg_nonneg_of_nonpos hdy).eq_or_lt
    · obtain rfl := eq_zero_of_le_lineN hk (by omega) (by omega)
      simp only [walkAt, lineStart]
      omega
    · obtain ⟨hlow, hhigh⟩ := (minorSteps_eq_iff (a := lineDX g) (k := k) hpos).1 rfl
      rw [walkAt_of_yMajor hpos hyx]
      simp only [walkerAfter]
      constructor <;> linarith

/-! The special lines (43_line.md R140). -/

theorem lineVisits_eq_map {n : Nat} {f : Nat → Int × Int} (hn : lineN g = n)
    (hf : ∀ k ≤ lineN g, visitAt g k = f k) : lineVisits g = (List.range (n + 1)).map f := by
  subst hn
  exact List.map_congr_left fun k hk => hf k (Nat.lt_succ_iff.1 (List.mem_range.1 hk))

/-- A horizontal line visits one point of its row for each x. -/
theorem lineVisits_of_horizontal (hy : g.y1 = g.y2) : lineVisits g =
    (List.range ((g.x2 - g.x1).natAbs + 1)).map fun k : Nat => (g.x1 + lineSX g * k, g.y1) := by
  have hxMajor : -lineDY g ≤ lineDX g := by
    unfold lineDY lineDX
    omega
  refine lineVisits_eq_map (by unfold lineN; omega) fun k hk => ?_
  have hbetween := walkAt_cy_between hk
  exact Prod.ext (walkAt_cx_of_xMajor hxMajor hk) (show (walkAt g k).cy = g.y1 by omega)

/-- A vertical line visits one point of its column for each y. -/
theorem lineVisits_of_vertical (hx : g.x1 = g.x2) : lineVisits g =
    (List.range ((g.y2 - g.y1).natAbs + 1)).map fun k : Nat => (g.x1, g.y1 + lineSY g * k) := by
  have hyMajor : lineDX g ≤ -lineDY g := by
    unfold lineDY lineDX
    omega
  refine lineVisits_eq_map (by unfold lineN; omega) fun k hk => ?_
  have hbetween := walkAt_cx_between hk
  exact Prod.ext (show (walkAt g k).cx = g.x1 by omega) (walkAt_cy_of_yMajor hyMajor hk)

/-- On an exact diagonal both axes are major. -/
theorem lineVisits_of_diagonal (hdiag : |g.x2 - g.x1| = |g.y2 - g.y1|) : lineVisits g =
    (List.range ((g.x2 - g.x1).natAbs + 1)).map fun k : Nat =>
      (g.x1 + lineSX g * k, g.y1 + lineSY g * k) := by
  have heq : lineDX g = -lineDY g := by rw [lineDX_eq_abs, lineDY_eq_neg_abs, neg_neg, hdiag]
  have hN : lineN g = (g.x2 - g.x1).natAbs := by
    unfold lineDX lineDY at heq
    unfold lineN
    omega
  exact lineVisits_eq_map hN fun k hk =>
    Prod.ext (walkAt_cx_of_xMajor heq.ge hk) (walkAt_cy_of_yMajor heq.le hk)

/-! The points inside the surface (43_line.md R143, R145). -/

/-- In the direction of the line, x never falls. -/
theorem walkAt_cx_monotone (g : Segment) : Monotone fun k => lineSX g * (walkAt g k).cx := by
  refine monotone_nat_of_le_succ fun k => ?_
  obtain hs | hs := lineSX_eq g <;> obtain hc | hc := walkAt_succ_cx g k <;> rw [hs] at * <;> omega

/-- In the direction of the line, y never falls. -/
theorem walkAt_cy_monotone (g : Segment) : Monotone fun k => lineSY g * (walkAt g k).cy := by
  refine monotone_nat_of_le_succ fun k => ?_
  obtain hs | hs := lineSY_eq g <;> obtain hc | hc := walkAt_succ_cy g k <;> rw [hs] at * <;> omega

/-- A value between two that are inside a range, in either direction, is inside it. -/
theorem mem_range_of_between {σ p x q size : Int} (hσ : σ = 1 ∨ σ = -1) (hpx : σ * p ≤ σ * x)
    (hxq : σ * x ≤ σ * q) (hp : 0 ≤ p ∧ p < size) (hq : 0 ≤ q ∧ q < size) : 0 ≤ x ∧ x < size := by
  obtain rfl | rfl := hσ <;> omega

/-- Between two visits of the surface the line does not leave it. -/
theorem inBounds_of_between {w h : BitVec 16} {i j k : Nat} (hij : i ≤ j) (hjk : j ≤ k)
    (hi : inBounds w h (visitAt g i).1 (visitAt g i).2 = true)
    (hk : inBounds w h (visitAt g k).1 (visitAt g k).2 = true) :
    inBounds w h (visitAt g j).1 (visitAt g j).2 = true := by
  rw [inBounds_iff, ← and_assoc] at hi hk ⊢
  exact ⟨mem_range_of_between (lineSX_eq g) (walkAt_cx_monotone g hij) (walkAt_cx_monotone g hjk)
      hi.1 hk.1,
    mem_range_of_between (lineSY_eq g) (walkAt_cy_monotone g hij) (walkAt_cy_monotone g hjk)
      hi.2 hk.2⟩

/-- If, before every element that passes a test, all do, those that pass stand first. -/
theorem filter_eq_take {α : Type} {p : α → Bool} {l : List α}
    (hp : l.Pairwise fun b c => p c = true → p b = true) : ∃ n, l.filter p = l.take n := by
  induction l with
  | nil => exact ⟨0, rfl⟩
  | cons b l ih =>
    obtain ⟨hb, hl⟩ := List.pairwise_cons.1 hp
    by_cases hpb : p b = true
    · obtain ⟨n, hn⟩ := ih hl
      exact ⟨n + 1, by rw [List.filter_cons_of_pos hpb, hn, List.take_succ_cons]⟩
    · refine ⟨0, List.filter_eq_nil_iff.2 fun c hc => ?_⟩
      obtain rfl | hc := List.mem_cons.1 hc
      · exact hpb
      · exact mt (hb c hc) hpb

/-- If, between every two elements that pass a test, all do, those that pass are one run. -/
theorem filter_eq_take_drop {α : Type} {p : α → Bool} {l : List α}
    (hp : ∀ a b c, [a, b, c].Sublist l → p a = true → p c = true → p b = true) :
    ∃ i n, l.filter p = (l.drop i).take n := by
  induction l with
  | nil => exact ⟨0, 0, rfl⟩
  | cons a l ih =>
    by_cases hpa : p a = true
    · obtain ⟨n, hn⟩ := filter_eq_take (List.pairwise_iff_forall_sublist.2
        fun hbc => hp a _ _ (hbc.cons_cons a) hpa)
      exact ⟨0, n + 1, by rw [List.filter_cons_of_pos hpa, hn, List.drop_zero, List.take_succ_cons]⟩
    · obtain ⟨i, n, hrun⟩ := ih fun b c d hsub => hp b c d (hsub.cons a)
      exact ⟨i + 1, n, by rw [List.filter_cons_of_neg hpa, hrun, List.drop_succ_cons]⟩

/-- Three visited points in their order are visits at steps in their order. -/
theorem exists_of_sublist_lineVisits {a b c : Int × Int} (habc : [a, b, c].Sublist (lineVisits g)) :
    ∃ i j k, i ≤ j ∧ j ≤ k ∧ visitAt g i = a ∧ visitAt g j = b ∧ visitAt g k = c := by
  obtain ⟨steps, hsteps, hmap⟩ := List.sublist_map_iff.1 habc
  have hsorted : steps.Pairwise (· < ·) := List.pairwise_lt_range.sublist hsteps
  match steps with
  | [i, j, k] =>
    obtain ⟨rfl, rfl, rfl⟩ : a = visitAt g i ∧ b = visitAt g j ∧ c = visitAt g k := by
      simpa using hmap
    simp only [List.pairwise_cons, List.mem_cons, forall_eq_or_imp] at hsorted
    obtain ⟨⟨hij, -⟩, ⟨hjk, -⟩, -⟩ := hsorted
    exact ⟨i, j, k, hij.le, hjk.le, rfl, rfl, rfl⟩
  | [] | [_] | [_, _] | _ :: _ :: _ :: _ :: _ => simp at hmap

/-- A line with both ends on the surface stays on it. -/
theorem inBounds_of_ends {w h : BitVec 16} (hstart : inBounds w h g.x1 g.y1 = true)
    (hend : inBounds w h g.x2 g.y2 = true) (hk : k ≤ lineN g) :
    inBounds w h (visitAt g k).1 (visitAt g k).2 = true := by
  refine inBounds_of_between (Nat.zero_le k) hk hstart ?_
  rw [visitAt_lineN]
  exact hend

/-- Different points of the surface have different cells. -/
theorem nodup_map_pixelAddr {w h : BitVec 16} {points : List (Int × Int)} (hnodup : points.Nodup)
    (hin : ∀ p ∈ points, inBounds w h p.1 p.2 = true) :
    (points.map fun p => pixelAddr w p.1 p.2).Nodup := by
  refine hnodup.map_on fun p hp q hq heq => ?_
  obtain ⟨hpx, hpxw, hpy, -⟩ := (inBounds_iff w h p.1 p.2).1 (hin p hp)
  obtain ⟨hqx, hqxw, hqy, -⟩ := (inBounds_iff w h q.1 q.2).1 (hin q hq)
  exact Prod.ext_iff.2 (pixelAddr_injective hpx hpxw hpy hqx hqxw hqy heq)

theorem draws_line (w h : BitVec 16) (c : Color) (a0 a1 a2 a3 : Word) :
    draws w h (.line c a0 a1 a2 a3) =
      (lineVisits (segmentOfOperands a0 a1 a2 a3)).filter fun p => inBounds w h p.1 p.2 := rfl

theorem runStepCount_line (w h : BitVec 16) (c : Color) (a0 a1 a2 a3 : Word) :
    runStepCount w h (.line c a0 a1 a2 a3) = lineN (segmentOfOperands a0 a1 a2 a3) + 1 := rfl

end Sys2Proof.Machine

namespace Sys2Proof.Proofs

open Sys2Proof.Machine

/-- Settles O27, by the two kinds of walk: the closed form is the rounded count of minor steps. -/
theorem walkEqualsClosedForm : Obligations.WalkEqualsClosedForm :=
  fun _ _ => visitAt_eq_closedVisit

/-- Settles O28: the points are pairwise different, and the `N`-th is the end point. -/
theorem walkReachesTheEndAfterNSteps : Obligations.WalkReachesTheEndAfterNSteps := fun g =>
  ⟨visitAt_zero g, visitAt_lineN g, fun _ => visitAt_ne_end, length_lineVisits g,
    lineVisits_nodup g, by rw [lineN_eq_max, lineDX_eq_abs, lineDY_eq_neg_abs, neg_neg]⟩

/-- Settles O29: the major coordinate counts the steps, and a coordinate that moves stays between
its end values. -/
theorem walkStepMovesTowardTheEnd : Obligations.WalkStepMovesTowardTheEnd := by
  intro g k hk
  refine ⟨fun hxMajor => ?xMajor, fun hyMajor => ?yMajor, walkAt_succ_cx g k, walkAt_succ_cy g k,
    dist_le_of_step (walkAt_succ_cx g k) (walkAt_cx_between hk),
    dist_le_of_step (walkAt_succ_cy g k) (walkAt_cy_between hk)⟩
  case xMajor =>
    rw [← lineDX_eq_abs, ← neg_neg |g.y2 - g.y1|, ← lineDY_eq_neg_abs] at hxMajor
    rw [walkAt_cx_of_xMajor hxMajor hk, walkAt_cx_of_xMajor hxMajor hk.le]
    push_cast
    ring
  case yMajor =>
    rw [← lineDX_eq_abs, ← neg_neg |g.y2 - g.y1|, ← lineDY_eq_neg_abs] at hyMajor
    rw [walkAt_cy_of_yMajor hyMajor hk, walkAt_cy_of_yMajor hyMajor hk.le]
    push_cast
    ring

/-- Settles O30, by the bounds on the steps of each axis and the rounding of the minor axis. -/
theorem walkStaysInItsBox : Obligations.WalkStaysInItsBox  := fun g _ hk =>
  let ⟨hxlow, hxhigh⟩ := walkAt_cx_between (g := g) hk
  let ⟨hylow, hyhigh⟩ := walkAt_cy_between (g := g) hk
  ⟨hxlow, hxhigh, hylow, hyhigh, walkAt_err_range hk⟩

/-- Settles O31: a line of zero length is a horizontal one of one point. -/
theorem specialLinesVisitTheirPoints : Obligations.SpecialLinesVisitTheirPoints := by
  refine fun g => ⟨fun hx hy => ?zeroLength, lineVisits_of_horizontal, lineVisits_of_vertical,
    lineVisits_of_diagonal⟩
  rw [lineVisits_of_horizontal hy, hx, sub_self]
  simp

/-- Settles O33, the surface being convex and the walk monotone along both axes. -/
theorem drawnPointsAreOneRun : Obligations.DrawnPointsAreOneRun := by
  refine fun w h g => filter_eq_take_drop fun a b c habc ha hc => ?_
  obtain ⟨i, j, k, hij, hjk, rfl, rfl, rfl⟩ := exists_of_sublist_lineVisits habc
  exact inBounds_of_between hij hjk ha hc

/-- Settles O34: the line stays on the surface between its ends, and its points are pairwise
different. -/
theorem lineInsideTheSurfaceDrawsEveryPoint : Obligations.LineInsideTheSurfaceDrawsEveryPoint := by
  intro w h c a0 a1 a2 a3 hstart hend
  have hin : ∀ p ∈ lineVisits (segmentOfOperands a0 a1 a2 a3), inBounds w h p.1 p.2 = true := by
    intro p hp
    obtain ⟨k, hk, rfl⟩ := mem_lineVisits.1 hp
    exact inBounds_of_ends hstart hend hk
  have hdraws : draws w h (.line c a0 a1 a2 a3) = lineVisits (segmentOfOperands a0 a1 a2 a3) :=
    (draws_line w h c a0 a1 a2 a3).trans (List.filter_eq_self.2 hin)
  rw [hdraws]
  exact ⟨rfl, nodup_map_pixelAddr (lineVisits_nodup _) hin, length_lineVisits _⟩

end Sys2Proof.Proofs
end

section
/-! The run of a RECT or a LINE (40_command_cycle.md section 6): each run step draws the point it is
at and goes on to the next one, and the one at the last point ends the command. One induction over
the visited points serves both commands. -/

namespace Sys2Proof.Machine

variable {s t u : State} {c : Clip} {g : Segment} {e : Int} {k m n : Nat}

/-! What a run of steps has done. -/

/-- `s` with the registers that run steps write taken from `t`. -/
def withRun (t s : State) : State :=
  { s with cx := t.cx, cy := t.cy, err := t.err, phase := t.phase, surf := t.surf }

/-- From `s` to `t` those of the given points that are in bounds have been drawn, and nothing but
the walker, PHASE and the surface has changed. -/
structure Drawn (points : List (Int × Int)) (s t : State) : Prop where
  frame : t = withRun t s
  surf : t.surf = paint s.w s.color (points.filter fun p => inBounds s.w s.h p.1 p.2) s.surf

theorem withRun_turns (h : t = withRun t s) : t.turns = s.turns :=
  (congrArg State.turns h).trans rfl

theorem withRun_w (h : t = withRun t s) : t.w = s.w := (congrArg State.w h).trans rfl

theorem withRun_h (h : t = withRun t s) : t.h = s.h := (congrArg State.h h).trans rfl

theorem withRun_op (h : t = withRun t s) : t.op = s.op := (congrArg State.op h).trans rfl

theorem withRun_color (h : t = withRun t s) : t.color = s.color :=
  (congrArg State.color h).trans rfl

theorem withRun_clipOf (h : t = withRun t s) : clipOf t = clipOf s := (congrArg clipOf h).trans rfl

theorem withRun_segmentOf (h : t = withRun t s) : segmentOf t = segmentOf s :=
  (congrArg segmentOf h).trans rfl

theorem Drawn.refl (s : State) : Drawn [] s s := ⟨rfl, rfl⟩

theorem Drawn.trans {points points' : List (Int × Int)} (hst : Drawn points s t)
    (htu : Drawn points' t u) : Drawn (points ++ points') s u where
  frame := htu.frame.trans ((congrArg (withRun u) hst.frame).trans rfl)
  surf := by
    rw [htu.surf, withRun_w hst.frame, withRun_h hst.frame, withRun_color hst.frame, hst.surf,
      List.filter_append, paint_append]

/-- A run through visited points: if every step at the `k`-th of `n` points draws it and goes on to
the next one, or ends the command at the last, then `m` steps draw the next `m` points. -/
theorem runFor_of_visits {visit : Nat → Int × Int} {At : Nat → State → Prop} {Done : State → Prop}
    (hstep : ∀ k s, At k s → s.turns = [] → ∃ t, step s = .next t ∧ Drawn [visit k] s t ∧
      (k + 1 < n → At (k + 1) t) ∧ (k + 1 = n → Done t))
    (hat : At k s) (hs : s.turns = []) (hk : k < n) (hm : k + m ≤ n) :
    ∃ t, Safety.runFor m s = .next t ∧ Drawn ((List.range' k m).map visit) s t ∧
      (k + m < n → At (k + m) t) ∧ (k + m = n → Done t) := by
  induction m generalizing k s with
  | zero => exact ⟨s, runFor_zero s, .refl s, fun _ => hat, fun h => absurd h hk.ne⟩
  | succ m ih =>
    obtain ⟨t, ht, hdrawn, hnext, hdone⟩ := hstep k s hat hs
    obtain rfl | hpos := Nat.eq_zero_or_pos m
    · exact ⟨t, runFor_of_step ht (runFor_zero t), hdrawn, hnext, hdone⟩
    · obtain ⟨u, hu, hdrawn', hnext', hdone'⟩ := ih (hnext (by omega))
        ((withRun_turns hdrawn.frame).trans hs) (by omega) (by omega)
      rw [List.range'_succ, List.map_cons, ← Nat.add_assoc, Nat.add_right_comm]
      exact ⟨u, runFor_of_step ht hu, hdrawn.trans hdrawn', hnext', hdone'⟩

/-! RECT. -/

/-- A RECT with the clipped edges `c` runs and is at its `k`-th point; `ERR`, which it does not
write, is `e`. -/
structure RectAt (c : Clip) (e : Int) (k : Nat) (s : State) : Prop where
  phase : s.phase = .rect
  op : s.op = opRect
  clip : clipOf s = c
  err : s.err = e
  lt : k < rectCount c
  position : (s.cx.toInt, s.cy.toInt) = rectPointAt c k

theorem RectAt.mem_clip (hat : RectAt c e k s) : (c.left ≤ s.cx.toInt ∧ s.cx.toInt < c.right) ∧
    c.top ≤ s.cy.toInt ∧ s.cy.toInt < c.bottom :=
  mem_rectPoints.1 (hat.position ▸ rectPointAt_mem hat.lt)

theorem RectAt.onSurface (hat : RectAt c e k s) : onSurface s s.cx.toInt s.cy.toInt = true := by
  obtain ⟨⟨hl, hr⟩, ht, hb⟩ := hat.mem_clip
  obtain rfl := hat.clip
  exact onSurface_of_inClip hl hr ht hb

/-- The position of a running RECT is one of its points, by its number. -/
theorem exists_rectAt (hp : s.phase = .rect) (hok : Safety.RectOk s) :
    ∃ k, RectAt (clipOf s) s.err k s := by
  obtain ⟨hop, -, hl, hr, ht, hb⟩ := hok
  obtain ⟨k, hk, hpos⟩ := exists_rectPointAt hl hr ht hb
  exact ⟨k, hp, hop, rfl, rfl, hk, hpos.symm⟩

theorem RectAt.rectOk (hat : RectAt c e k s) : Safety.RectOk s := by
  obtain ⟨⟨hl, hr⟩, ht, hb⟩ := hat.mem_clip
  obtain rfl := hat.clip
  have hne : clipNonEmpty (clipOf s) = true := (clipNonEmpty_iff _).2 ⟨by omega, by omega⟩
  exact ⟨hat.op, hne, hl, hr, ht, hb⟩

theorem afterRectRun_err (s : State) : (afterRectRun s).err = s.err :=
  (congrArg State.err (afterRectRun_frame s)).trans rfl

theorem afterRectRun_withRun (s : State) : afterRectRun s = withRun (afterRectRun s) s := by
  rw [withRun, afterRectRun_err]
  exact afterRectRun_frame s

/-- A RECT run step on the surface draws the pixel at the walker. -/
theorem afterRectRun_drawn (hon : onSurface s s.cx.toInt s.cy.toInt = true) :
    Drawn [(s.cx.toInt, s.cy.toInt)] s (afterRectRun s) where
  frame := afterRectRun_withRun s
  surf := by
    have hplot : plot s.cx.toInt s.cy.toInt s = setPixel s.cx.toInt s.cy.toInt s.color s :=
      if_pos hon
    rw [← plot_surf_eq_paint, hplot, afterRectRun, rectAdvance_surf]

/-- A RECT run step goes on to the next point, and at the last one it ends. -/
theorem RectAt.moves_on (hat : RectAt c e k s) :
    (k + 1 < rectCount c → RectAt c e (k + 1) (afterRectRun s)) ∧
    (k + 1 = rectCount c → (afterRectRun s).phase = .idle ∧ (afterRectRun s).err = e) := by
  obtain ⟨⟨hl, hr⟩, -, hb⟩ := hat.mem_clip
  obtain ⟨hp, hop, rfl, rfl, -, hpos⟩ := hat
  have hwidth := hl.trans_lt hr
  have hsucc := rectPointAt_succ hwidth k
  have hlast := lt_rectCount_iff (k := k + 1) hwidth
  have hop := (withRun_op (afterRectRun_withRun s)).trans hop
  have hclip := withRun_clipOf (afterRectRun_withRun s)
  have herr := afterRectRun_err s
  rw [← hpos] at hsucc
  by_cases hrow : s.cx.toInt + 1 < (clipOf s).right
  · obtain ⟨hcx, hcy, hphase⟩ := rectAdvance_in_row (s := setPixel _ _ s.color s) hp hrow
    rw [if_pos hrow] at hsucc
    rw [hsucc] at hlast
    refine ⟨fun h => ⟨hphase, hop, hclip, herr, h, ?_⟩, fun h => absurd (hlast.2 hb) h.not_lt⟩
    rw [hsucc]
    exact Prod.ext hcx (congrArg BitVec.toInt hcy)
  · rw [if_neg hrow] at hsucc
    rw [hsucc] at hlast
    by_cases hcol : s.cy.toInt + 1 < (clipOf s).bottom
    · obtain ⟨hcx, hcy, hphase⟩ :=
        rectAdvance_to_next_row (s := setPixel _ _ s.color s) hp hrow hcol
      refine ⟨fun h => ⟨hphase, hop, hclip, herr, h, ?_⟩, fun h => absurd (hlast.2 hcol) h.not_lt⟩
      rw [hsucc]
      exact Prod.ext hcx hcy
    · obtain ⟨-, -, hphase⟩ := rectAdvance_at_last_cell (s := setPixel _ _ s.color s) hrow hcol
      exact ⟨fun h => absurd (hlast.1 h) hcol, fun _ => ⟨hphase, herr⟩⟩

theorem RectAt.step_next (hat : RectAt c e k s) (hs : s.turns = []) :
    ∃ t, step s = .next t ∧ Drawn [rectPointAt c k] s t ∧
      (k + 1 < rectCount c → RectAt c e (k + 1) t) ∧
      (k + 1 = rectCount c → t.phase = .idle ∧ t.err = e) := by
  refine ⟨_, step_rect_of_onSurface (.inl hs) hat.phase hat.onSurface, ?_⟩
  rw [afterTurn_of_turns_nil hs, ← hat.position]
  exact ⟨afterRectRun_drawn hat.onSurface, hat.moves_on⟩

/-! LINE. -/

/-- A LINE along `g` runs and is at its `k`-th visited point. -/
structure LineAt (g : Segment) (k : Nat) (s : State) : Prop where
  phase : s.phase = .line
  op : s.op = opLine
  segment : segmentOf s = g
  le : k ≤ lineN g
  walker : walkerOf s = walkAt g k

theorem LineAt.position (hat : LineAt g k s) : (s.cx.toInt, s.cy.toInt) = visitAt g k :=
  congrArg (fun p : Walker => (p.cx, p.cy)) hat.walker

theorem exists_lineAt (hp : s.phase = .line) (hok : Safety.LineOk s) :
    ∃ k, LineAt (segmentOf s) k s := by
  obtain ⟨hop, k, hk, hwalk⟩ := hok
  exact ⟨k, hp, hop, rfl, hk, hwalk⟩

theorem LineAt.lineOk (hat : LineAt g k s) : Safety.LineOk s := by
  obtain ⟨-, hop, rfl, hk, hwalk⟩ := hat
  exact ⟨hop, k, hk, hwalk⟩

/-- A LINE run step draws the point at the walker if it is in bounds. -/
theorem afterLineRun_drawn (s : State) : Drawn [(s.cx.toInt, s.cy.toInt)] s (afterLineRun s) where
  frame := afterLineRun_frame s
  surf := by
    rw [← plot_surf_eq_paint, afterLineRun_eq]

/-- The walker is at the end point of its line at the `N`-th visited point and at no other. -/
theorem LineAt.at_end_iff (hat : LineAt g k s) : (s.cx = s.a2 ∧ s.cy = s.a3) ↔ k = lineN g := by
  have hpos := hat.position
  obtain ⟨-, -, rfl, hk, hwalk⟩ := hat
  constructor
  · rintro ⟨hx, hy⟩
    by_contra hne
    refine visitAt_ne_end (hk.lt_of_ne hne) ?_
    rw [← hpos, hx, hy]
    rfl
  · intro hN
    by_contra hne
    exact (lt_lineN_of_not_at_end hk hwalk hne).ne hN

/-- A LINE run step goes on to the next visited point, and at the end point it ends. -/
theorem LineAt.moves_on (hat : LineAt g k s) :
    (k + 1 < lineN g + 1 → LineAt g (k + 1) (afterLineRun s)) ∧
    (k + 1 = lineN g + 1 → (afterLineRun s).phase = .idle) := by
  have hend := hat.at_end_iff
  have hok := hat.lineOk
  obtain ⟨hp, hop, rfl, -, hwalk⟩ := hat
  refine ⟨fun hlt => ?_, fun heq => (afterLineRun_at_end (hend.2 (by omega))).1⟩
  obtain ⟨hphase, hnext⟩ := afterLineRun_before_end hp hok (mt hend.1 (by omega))
  exact ⟨hphase, (withRun_op (afterLineRun_frame s)).trans hop,
    withRun_segmentOf (afterLineRun_frame s), by omega, hnext.trans (congrArg _ hwalk)⟩

theorem LineAt.step_next (hat : LineAt g k s) (hs : s.turns = []) :
    ∃ t, step s = .next t ∧ Drawn [visitAt g k] s t ∧
      (k + 1 < lineN g + 1 → LineAt g (k + 1) t) ∧ (k + 1 = lineN g + 1 → t.phase = .idle) := by
  refine ⟨_, step_line (.inl hs) hat.phase, ?_⟩
  rw [afterTurn_of_turns_nil hs, ← hat.position]
  exact ⟨afterLineRun_drawn s, hat.moves_on⟩

/-! The runs. -/

/-- PHASE after the run to the `m`-th of `n` points. -/
theorem phase_eq_ite {p : Phase} (hm : m ≤ n) (hbusy : m < n → t.phase = p)
    (hdone : m = n → t.phase = .idle) : t.phase = if m = n then .idle else p := by
  split
  case isTrue heq => exact hdone heq
  case isFalse hne => exact hbusy (hm.lt_of_ne hne)

/-- The next `m` run steps of a RECT draw its next `m` points. -/
theorem RectAt.runFor (hat : RectAt c e k s) (hs : s.turns = []) (hm : k + m ≤ rectCount c) :
    ∃ t, Safety.runFor m s = .next t ∧ Drawn ((List.range' k m).map (rectPointAt c)) s t ∧
      t.err = e ∧ t.phase = if k + m = rectCount c then .idle else .rect := by
  obtain ⟨t, ht, hdrawn, hbusy, hdone⟩ :=
    runFor_of_visits (fun _ _ hat => hat.step_next) hat hs hat.lt hm
  refine ⟨t, ht, hdrawn, ?_, phase_eq_ite hm (fun h => (hbusy h).phase) fun h => (hdone h).1⟩
  obtain hlt | heq := hm.lt_or_eq
  · exact (hbusy hlt).err
  · exact (hdone heq).2

/-- The next `m` run steps of a LINE visit its next `m` points. -/
theorem LineAt.runFor (hat : LineAt g k s) (hs : s.turns = []) (hm : k + m ≤ lineN g + 1) :
    ∃ t, Safety.runFor m s = .next t ∧ Drawn ((List.range' k m).map (visitAt g)) s t ∧
      t.phase = if k + m = lineN g + 1 then .idle else .line := by
  obtain ⟨t, ht, hdrawn, hbusy, hdone⟩ :=
    runFor_of_visits (fun _ _ hat => hat.step_next) hat hs (Nat.lt_succ_of_le hat.le) hm
  exact ⟨t, ht, hdrawn, phase_eq_ite hm (fun h => (hbusy h).phase) hdone⟩

/-! The bounds of a running command (43_line.md R138; 70_reset_and_hazards.md R193). -/

/-- The extent of a line between 32-bit points. -/
theorem lineN_segmentOf_lt (s : State) : lineN (segmentOf s) < 4294967296 := by
  have h0 := word_toInt_range s.a0
  have h1 := word_toInt_range s.a1
  have h2 := word_toInt_range s.a2
  have h3 := word_toInt_range s.a3
  simp only [lineN, segmentOf]
  omega

theorem cellCount_le (w h : BitVec 16) : cellCount w h ≤ 4294967296 :=
  Nat.mul_le_mul w.isLt.le h.isLt.le

end Sys2Proof.Machine

namespace Sys2Proof.Proofs

open Sys2Proof.Machine

/-- Settles O55: a running command is at one of its points, and the others take it to IDLE. -/
theorem runningCommandEnds : Obligations.RunningCommandEnds := by
  rintro s hok hs (hp | hp)
  · obtain ⟨k, hat⟩ := exists_rectAt hp (hok.rectOk hp)
    have hk := hat.lt
    have hcells : rectCount (clipOf s) ≤ cellCount s.w s.h := rectCount_le_cellCount ..
    obtain ⟨t, ht, -, -, hphase⟩ := hat.runFor hs (m := rectCount (clipOf s) - k) (by omega)
    rw [if_pos (by omega)] at hphase
    have hbound := cellCount_le s.w s.h
    exact ⟨_, t, ht, hphase, fun _ => (Nat.sub_le _ _).trans hcells,
      (nomatch hp.symm.trans ·), by omega⟩
  · obtain ⟨k, hat⟩ := exists_lineAt hp (hok.lineOk hp)
    have hk := hat.le
    obtain ⟨t, ht, -, hphase⟩ := hat.runFor hs (m := lineN (segmentOf s) + 1 - k) (by omega)
    rw [if_pos (by omega)] at hphase
    have hbound := lineN_segmentOf_lt s
    exact ⟨_, t, ht, hphase, (nomatch hp.symm.trans ·), fun _ => Nat.sub_le _ _,
      by omega⟩

end Sys2Proof.Proofs
end

section
/-! Whole commands (40_command_cycle.md section 6): the accept step leads to the first point of the
command, and its run steps draw the points of `Draws`, in their number. -/

namespace Sys2Proof.Machine

variable {s t : State} {cmd : Command} {i : Instr} {c : Color} {a0 a1 a2 a3 : Word} {m : Nat}

/-! The accept step. -/

theorem step_of_command (hs : s.turns = []) (hp : s.phase = .idle) (ho : s.offer = some cmd)
    (hd : decode cmd = .ok i) : step s = exec i (clearOffer s) := by
  rw [step_accepts (.inl hs) hp ho, afterTurn_of_turns_nil hs, acceptStep_of_decode hd]

theorem runFor_one_add (ht : step s = .next t) (m : Nat) :
    Safety.runFor (1 + m) s = Safety.runFor m t := by
  rw [Nat.add_comm, Safety.runFor, ht]

/-- The accept part of a RECT with something to draw leads to its first point. -/
theorem rectAt_zero (hne : clipNonEmpty (clipOfOperands s.w s.h a0 a1 a2 a3) = true) :
    RectAt (clipOfOperands s.w s.h a0 a1 a2 a3) s.err 0 (setPhase .rect
      (setPosition (max a0.toInt 0) (max a1.toInt 0) (latch opRect c a0 a1 a2 a3 s))) where
  phase := rfl
  op := rfl
  clip := rfl
  err := rfl
  lt := rectCount_pos hne
  position := by
    rw [rectPointAt_zero]
    exact Prod.ext (toInt_ofInt_max_zero a0) (toInt_ofInt_max_zero a1)

/-- The accept part of a LINE leads to its first point. -/
theorem lineAt_zero (c : Color) (a0 a1 a2 a3 : Word) (s : State) :
    LineAt (segmentOfOperands a0 a1 a2 a3) 0 (startLine (latch opLine c a0 a1 a2 a3 s)) := by
  rw [startLine_eq]
  exact ⟨rfl, rfl, rfl, Nat.zero_le _, rfl⟩

/-! The points of a RECT are all on the surface. -/

theorem inBounds_of_mem_draws_rect {w h : BitVec 16} {p : Int × Int}
    (hp : p ∈ draws w h (.rect c a0 a1 a2 a3)) : inBounds w h p.1 p.2 = true :=
  (inBounds_iff w h p.1 p.2).2 ((mem_draws_rect w h a0 a1 a2 a3 c p.1 p.2).1 hp).2

/-- The first `m` points of a RECT. -/
theorem take_draws_rect {w h : BitVec 16}
    (hm : m ≤ rectCount (clipOfOperands w h a0 a1 a2 a3)) :
    (draws w h (.rect c a0 a1 a2 a3)).take m =
      (((List.range' 0 m).map (rectPointAt (clipOfOperands w h a0 a1 a2 a3))).filter
        fun p => inBounds w h p.1 p.2) := by
  have htake : (draws w h (.rect c a0 a1 a2 a3)).take m =
      (List.range' 0 m).map (rectPointAt (clipOfOperands w h a0 a1 a2 a3)) := by
    rw [draws_rect, rectPoints_eq_map, ← List.map_take, List.take_range, min_eq_left hm,
      List.range_eq_range']
  rw [← htake, List.filter_eq_self.2 fun p hp =>
    inBounds_of_mem_draws_rect (List.mem_of_mem_take hp)]

/-- The first `m` visited points of a line. -/
theorem take_lineVisits {g : Segment} (hm : m ≤ lineN g + 1) :
    (lineVisits g).take m = (List.range' 0 m).map (visitAt g) := by
  rw [lineVisits, ← List.map_take, List.take_range, min_eq_left hm, List.range_eq_range']

/-- `t` is a state that `s` leads to when the whole command `i` has run: the unit is IDLE again and
the points of `Draws` are drawn. -/
structure CommandDone (i : Instr) (s t : State) : Prop where
  phase : t.phase = .idle
  offer : t.offer = none
  faultOp : t.faultOp = s.faultOp
  turns : t.turns = s.turns
  w : t.w = s.w
  h : t.h = s.h
  surf : t.surf = paint s.w (colorOf i) (draws s.w s.h i) s.surf

/-- Such a state differs from `s` in the latches, the walker, PHASE, the offer and the surface. -/
theorem CommandDone.of_eq {op : OpCode} {color : Color} {b0 b1 b2 b3 cx cy : Word} {err : Int}
    (h : t = { s with offer := none, op := op, color := color, a0 := b0, a1 := b1, a2 := b2,
                      a3 := b3, cx := cx, cy := cy, err := err, phase := .idle,
                      surf := paint s.w (colorOf i) (draws s.w s.h i) s.surf }) :
    CommandDone i s t := by
  subst h
  exact ⟨rfl, rfl, rfl, rfl, rfl, rfl, rfl⟩

end Sys2Proof.Machine

namespace Sys2Proof.Proofs

open Sys2Proof.Machine

/-- Settles O24: an empty RECT is finished by its accept step; any other is then at its first point,
and its run goes through the points in their order. -/
theorem rectCommandPaintsItsRectangle : Obligations.RectCommandPaintsItsRectangle := by
  intro s cmd c a0 a1 a2 a3 m hs hp ho hd hm
  have hstep := step_of_command hs hp ho hd
  have hlen : (draws s.w s.h (.rect c a0 a1 a2 a3)).length =
    rectCount (clipOfOperands s.w s.h a0 a1 a2 a3) := length_rectPoints _
  rw [hlen] at hm ⊢
  rw [take_draws_rect hm]
  by_cases hne : clipNonEmpty (clipOfOperands s.w s.h a0 a1 a2 a3) = true
  · rw [exec_rect_of_nonEmpty (s := clearOffer s) hne] at hstep
    rw [runFor_one_add hstep]
    obtain ⟨t, ht, hdrawn, herr, hphase⟩ := (rectAt_zero (s := clearOffer s) (c := c) hne).runFor hs
      ((Nat.zero_add m).trans_le hm)
    refine ⟨t, ht, hdrawn.frame.trans ?_⟩
    rw [withRun, hdrawn.surf, herr, hphase, Nat.zero_add]
    rfl
  · rw [exec_rect_of_empty (s := clearOffer s) hne] at hstep
    have hcount := rectCount_eq_zero_of_empty hne
    obtain rfl : m = 0 := by omega
    rw [runFor_one_add hstep]
    exact ⟨_, runFor_zero _, by rw [hcount]; rfl⟩

/-- Settles O32: the accept step leads to the first point, and the run goes through the visited
points in their order. -/
theorem lineCommandPaintsItsVisitedPoints : Obligations.LineCommandPaintsItsVisitedPoints := by
  rintro s cmd c a0 a1 a2 a3 g hs hp ho hd rfl
  refine ⟨runStepCount_line .., ?_, fun m hm => ?_⟩
  · rw [draws_line, List.take_of_length_le (length_lineVisits _).le]
    rfl
  have hstep := (step_of_command hs hp ho hd).trans (exec_line c a0 a1 a2 a3 (clearOffer s))
  obtain ⟨t, ht, hdrawn, hphase⟩ := (lineAt_zero c a0 a1 a2 a3 (clearOffer s)).runFor hs
    ((Nat.zero_add m).trans_le hm)
  rw [runFor_one_add hstep, take_lineVisits hm]
  refine ⟨t, ht, hdrawn.frame.trans ?_⟩
  rw [withRun, hdrawn.surf, hphase, Nat.zero_add]
  rfl

/-- Every command, from IDLE, has run to its end after its number of steps. -/
theorem runFor_command {s : State} {cmd : Command} {i : Instr} (hs : s.turns = [])
    (hp : s.phase = .idle) (ho : s.offer = some cmd) (hd : decode cmd = .ok i) :
    ∃ t, Safety.runFor (1 + runStepCount s.w s.h i) s = .next t ∧ CommandDone i s t := by
  cases i with
  | point c a0 a1 a2 a3 =>
    have hstep := (step_of_command hs hp ho hd).trans (exec_point c a0 a1 a2 a3 (clearOffer s))
    have hframe := afterPoint_frame c a0 a1 a2 a3 (clearOffer s)
    rw [afterPoint_surf] at hframe
    exact ⟨_, (runFor_one_add hstep _).trans (runFor_zero _), .of_eq hframe⟩
  | line c a0 a1 a2 a3 =>
    obtain ⟨hcount, hdraws, hrun⟩ :=
      lineCommandPaintsItsVisitedPoints s cmd c a0 a1 a2 a3 _ hs hp ho hd rfl
    obtain ⟨t, ht, hframe⟩ := hrun _ le_rfl
    rw [if_pos rfl, ← hdraws] at hframe
    exact ⟨t, hcount ▸ ht, .of_eq hframe⟩
  | rect c a0 a1 a2 a3 =>
    obtain ⟨t, ht, hframe⟩ :=
      rectCommandPaintsItsRectangle s cmd c a0 a1 a2 a3 _ hs hp ho hd le_rfl
    rw [if_pos rfl, List.take_length] at hframe
    rw [runStepCount_rect, ← length_rectPoints]
    exact ⟨t, ht, .of_eq hframe⟩

/-- Settles O47: a command that has run leaves the surface with its points drawn and the unit ready
for the same command, which then draws the same points again. -/
theorem everyCommandPaintsItsPointsOnce : Obligations.EveryCommandPaintsItsPointsOnce := by
  intro s cmd i hwf hs hp ho hd
  obtain ⟨t, ht, hdone⟩ := runFor_command hs hp ho hd
  obtain ⟨u, hu, hdone'⟩ := runFor_command (s := setOffer cmd t) (hdone.turns.trans hs)
    hdone.phase rfl hd
  have hsurf := hdone'.surf
  rw [setOffer_w, setOffer_h, hdone.w, hdone.h] at hu hsurf
  refine ⟨t, u, ht, hdone.phase, hdone.offer, hdone.faultOp, hdone.w, hdone.h, hdone.surf, hu, ?_⟩
  rw [hsurf, setOffer_surf, hdone.surf, paint_paint hwf]

end Sys2Proof.Proofs
end

section
/-! What every step of the machine leaves unchanged (10_state.md sections 2 and 6;
70_reset_and_hazards.md R192), and what enters FAULT (60_exceptions.md section 1): an accept step, a
run step, a passed turn and a host step each have their own frame. -/

namespace Sys2Proof.Machine

variable {s t : State} {cmd : Command}

/-- Every way the machine has to a next state. -/
theorem step_next_cases (ht : step s = .next t) :
    (∃ cmd, Safety.unitToMove s ∧ s.phase = .idle ∧ s.offer = some cmd ∧
      acceptStep cmd (Safety.afterTurn s) = .next t) ∨
    (s.phase = .rect ∧ onSurface s s.cx.toInt s.cy.toInt = true ∧
      t = afterRectRun (Safety.afterTurn s)) ∨
    (s.phase = .line ∧ t = afterLineRun (Safety.afterTurn s)) ∨
    (∃ rest, t = setTurns rest s) ∨
    (∃ h rest, s.turns = .host h :: rest ∧ hostStep h (setTurns rest s) = .next t) := by
  obtain ⟨hm, hu⟩ | ⟨rest, -, -, rfl⟩ | hhost := step_next ht
  · obtain ⟨cmd, hp, ho, ha⟩ | ⟨hp, hon, rfl⟩ | ⟨hp, rfl⟩ := unitStep_next hu
    · exact .inl ⟨cmd, hm, hp, ho, ha⟩
    · exact .inr (.inl ⟨hp, hon, rfl⟩)
    · exact .inr (.inr (.inl ⟨hp, rfl⟩))
  · exact .inr (.inr (.inr (.inl ⟨rest, rfl⟩)))
  · exact .inr (.inr (.inr (.inr hhost)))

/-! The accept step. -/

/-- The latches written from the word, and the offer taken. -/
def latchWord (cmd : Command) (s : State) : State :=
  latch (cmdOp cmd) (cmdColor cmd) (cmdA0 cmd) (cmdA1 cmd) (cmdA2 cmd) (cmdA3 cmd) (clearOffer s)

/-- `s` with what an accept step may write beside the latches and the offer taken from `t`. -/
def withAccept (t s : State) : State :=
  { s with cx := t.cx, cy := t.cy, err := t.err, phase := t.phase, faultOp := t.faultOp,
           surf := t.surf }

/-- Whatever the word, an accept step latches it, takes the offer and writes no more than the
walker, PHASE, `FAULT_OP` and the surface. -/
theorem acceptStep_frame (ht : acceptStep cmd s = .next t) :
    t = withAccept t (latchWord cmd s) := by
  obtain ⟨u, hu, ⟨-, rfl⟩ | ⟨-, rfl⟩ | ⟨-, rfl⟩ | ⟨-, -, -, rfl⟩⟩ := acceptStep_next ht <;>
    obtain rfl : u = latchWord cmd s := hu
  · have hframe := congrArg (setPhase .idle)
      (plot_frame (cmdA0 cmd).toInt (cmdA1 cmd).toInt (latchWord cmd s))
    rw [hframe]
    rfl
  · rfl
  · rw [startRect_frame]
    rfl
  · rfl

/-- An accept step enters FAULT for an illegal code only. -/
theorem illegal_of_acceptStep_phase (ht : acceptStep cmd s = .next t) (hp : t.phase = .fault) :
    cmdOp cmd ≠ opPoint ∧ cmdOp cmd ≠ opLine ∧ cmdOp cmd ≠ opRect := by
  by_contra hlegal
  obtain ⟨i, hi⟩ := decode_of_legalOp (cmd := cmd) (by tauto)
  rw [acceptStep_of_decode hi] at ht
  obtain ⟨u, hu, hne, -⟩ := exec_raisesNothing i (clearOffer s)
  obtain rfl : u = t := Host.Outcome.next.inj (hu.symm.trans ht)
  exact hne hp

/-! The host. -/

/-- A host step other than reset writes the offer, the surface and what the host has read, no
more. -/
theorem hostStep_frame {h : HostStep} (ht : hostStep h s = .next t) :
    (h = .reset ∧ t = resetUnit s) ∨
    t = { s with offer := t.offer, surf := t.surf, observed := t.observed } := by
  obtain ⟨_, -, rfl⟩ | ⟨-, rfl⟩ | ⟨_, _, -, -, -, rfl⟩ | ⟨_, -, -, rfl⟩ | ⟨_, -, rfl⟩ | hreset :=
    hostStep_cases ht
  · exact .inr rfl
  · exact .inr rfl
  · exact .inr rfl
  · exact .inr rfl
  · exact .inr rfl
  · exact .inl hreset

/-! The machine. -/

/-- The parameters `W` and `H` together. -/
def surfaceSize (s : State) : BitVec 16 × BitVec 16 := (s.w, s.h)

/-- No step changes the size of the surface. -/
theorem step_surfaceSize (ht : step s = .next t) : surfaceSize t = surfaceSize s := by
  obtain ⟨cmd, -, -, -, ha⟩ | ⟨-, -, rfl⟩ | ⟨-, rfl⟩ | ⟨rest, rfl⟩ | ⟨h, rest, -, hh⟩ :=
    step_next_cases ht
  · exact (congrArg surfaceSize (acceptStep_frame ha)).trans rfl
  · exact (congrArg surfaceSize (afterRectRun_withRun (Safety.afterTurn s))).trans rfl
  · exact (congrArg surfaceSize (afterLineRun_frame (Safety.afterTurn s))).trans rfl
  · rfl
  · obtain ⟨-, rfl⟩ | hframe := hostStep_frame hh
    · rfl
    · exact (congrArg surfaceSize hframe).trans rfl

/-- The latches stay, or they are written all together from the accepted word, or it is a reset. -/
theorem step_latches (ht : step s = .next t) : latchesOf t = latchesOf s ∨
    (Safety.unitToMove s ∧ s.phase = .idle ∧ ∃ cmd, s.offer = some cmd ∧
      latchesOf t = latchesOf (latchWord cmd s)) ∨
    (∃ rest, s.turns = .host .reset :: rest) := by
  obtain ⟨cmd, hm, hp, ho, ha⟩ | ⟨-, -, rfl⟩ | ⟨-, rfl⟩ | ⟨rest, rfl⟩ | ⟨h, rest, hs, hh⟩ :=
    step_next_cases ht
  · exact .inr (.inl ⟨hm, hp, cmd, ho, (congrArg latchesOf (acceptStep_frame ha)).trans rfl⟩)
  · exact .inl ((congrArg latchesOf (afterRectRun_withRun (Safety.afterTurn s))).trans rfl)
  · exact .inl ((congrArg latchesOf (afterLineRun_frame (Safety.afterTurn s))).trans rfl)
  · exact .inl rfl
  · obtain ⟨rfl, -⟩ | hframe := hostStep_frame hh
    · exact .inr (.inr ⟨rest, hs⟩)
    · exact .inl ((congrArg latchesOf hframe).trans rfl)

/-- Only the accept step of an illegal code enters FAULT. -/
theorem step_enters_fault (ht : step s = .next t) (hs : s.phase ≠ .fault) (hp : t.phase = .fault) :
    Safety.unitToMove s ∧ s.phase = .idle ∧ ∃ cmd, s.offer = some cmd ∧
      cmdOp cmd ≠ opPoint ∧ cmdOp cmd ≠ opLine ∧ cmdOp cmd ≠ opRect := by
  obtain ⟨cmd, hm, hidle, ho, ha⟩ | ⟨hrect, -, rfl⟩ | ⟨hline, rfl⟩ | ⟨rest, rfl⟩ |
    ⟨h, rest, -, hh⟩ := step_next_cases ht
  · exact ⟨hm, hidle, cmd, ho, illegal_of_acceptStep_phase ha hp⟩
  · obtain h | h := rectAdvance_phase (s := setPixel _ _ _ (Safety.afterTurn s)) hrect <;>
      cases hp.symm.trans h
  · obtain h | h := lineAdvance_phase (s := plot s.cx.toInt s.cy.toInt (Safety.afterTurn s))
      ((plot_phase _ _ _).trans hline) <;> cases hp.symm.trans h
  · exact absurd hp hs
  · obtain ⟨-, rfl⟩ | hframe := hostStep_frame hh
    · cases hp
    · exact absurd ((congrArg State.phase hframe).symm.trans hp) hs

/-- What becomes of a word on offer. -/
theorem step_offer (ho : s.offer = some cmd) (ht : step s = .next t) : t.offer = some cmd ∨
    (Safety.unitToMove s ∧ s.phase = .idle ∧ t.offer = none) ∨
    (∃ rest, s.turns = .host .withdraw :: rest ∧ t.offer = none) ∨
    (∃ cmd' rest, s.turns = .host (.offer cmd') :: rest ∧ t.offer = some cmd') := by
  obtain ⟨cmd, hm, hp, -, ha⟩ | ⟨-, -, rfl⟩ | ⟨-, rfl⟩ | ⟨rest, rfl⟩ | ⟨h, rest, hs, hh⟩ :=
    step_next_cases ht
  · exact .inr (.inl ⟨hm, hp, congrArg State.offer (acceptStep_frame ha)⟩)
  · exact .inl ((congrArg State.offer (afterRectRun_withRun (Safety.afterTurn s))).trans ho)
  · exact .inl ((congrArg State.offer (afterLineRun_frame (Safety.afterTurn s))).trans ho)
  · exact .inl ho
  · obtain ⟨cmd', rfl, rfl⟩ | ⟨rfl, rfl⟩ | ⟨_, _, -, -, -, rfl⟩ | ⟨_, -, -, rfl⟩ | ⟨_, -, rfl⟩ |
      ⟨-, rfl⟩ := hostStep_cases hh
    · exact .inr (.inr (.inr ⟨cmd', rest, hs, rfl⟩))
    · exact .inr (.inr (.inl ⟨rest, hs, rfl⟩))
    · exact .inl ho
    · exact .inl ho
    · exact .inl ho
    · exact .inl ho

end Sys2Proof.Machine

namespace Sys2Proof.Proofs

open Sys2Proof.Machine

/-- Settles O12: no command's accept step and no run step enters FAULT, and no host step does. -/
theorem onlyAnIllegalCodeEntersFault : Obligations.OnlyAnIllegalCodeEntersFault :=
  fun _ _ => step_enters_fault

/-- Settles O13, by the frame of each kind of step. -/
theorem latchesChangeOnlyInAcceptAndReset : Obligations.LatchesChangeOnlyInAcceptAndReset := by
  intro s t ht
  obtain hsame | ⟨hm, hp, cmd, ho, hword⟩ | hreset := step_latches ht
  · exact .inl (latchesOf_eq_iff.1 hsame)
  · exact .inr (.inl ⟨hm, hp, cmd, ho, latchesOf_eq_iff.1 hword⟩)
  · exact .inr (.inr hreset)

/-- Settles O14: a run step does not touch the offer, and of the host's steps only two do. -/
theorem offerStandsUntilTakenOrWithdrawn : Obligations.OfferStandsUntilTakenOrWithdrawn :=
  fun _ _ _ => step_offer

/-- Settles O15, by the frame of each kind of step. -/
theorem surfaceSizeNeverChanges : Obligations.SurfaceSizeNeverChanges :=
  fun _ _ ht => Prod.mk.inj (step_surfaceSize ht)

end Sys2Proof.Proofs
end

section
/-! The one cell a step of the unit writes (20_memory.md sections 2 and 4). -/

namespace Sys2Proof.Machine

variable {s t : State} {cmd : Command}

/-- An accept step writes the pixel of a POINT in bounds, and no cell else. -/
theorem acceptStep_surf (ht : acceptStep cmd s = .next t) : t.surf =
    if cmdOp cmd = opPoint ∧ inBounds s.w s.h (cmdA0 cmd).toInt (cmdA1 cmd).toInt = true then
      s.surf.write (pixelAddr s.w (cmdA0 cmd).toInt (cmdA1 cmd).toInt) (pixelValue (cmdColor cmd))
    else s.surf := by
  obtain ⟨u, hu, ⟨hop, rfl⟩ | ⟨hop, rfl⟩ | ⟨hop, rfl⟩ | ⟨hop, -, -, rfl⟩⟩ := acceptStep_next ht <;>
    obtain rfl : u = latchWord cmd s := hu
  · simp only [hop, true_and]
    exact plot_surf (latchWord cmd s) _ _
  · rw [if_neg (fun h => absurd (hop.symm.trans h.1) (by decide))]
    rfl
  · rw [if_neg (fun h => absurd (hop.symm.trans h.1) (by decide))]
    exact (congrArg State.surf (startRect_frame (latchWord cmd s))).trans rfl
  · rw [if_neg (fun h => hop h.1)]
    rfl

section UnitTurn

variable (hm : Safety.unitToMove s) (ht : step s = .next t)
include hm ht

theorem step_surf_of_accept (hp : s.phase = .idle) (ho : s.offer = some cmd) : t.surf =
    if cmdOp cmd = opPoint ∧ inBounds s.w s.h (cmdA0 cmd).toInt (cmdA1 cmd).toInt = true then
      s.surf.write (pixelAddr s.w (cmdA0 cmd).toInt (cmdA1 cmd).toInt) (pixelValue (cmdColor cmd))
    else s.surf :=
  acceptStep_surf (s := Safety.afterTurn s) ((step_accepts hm hp ho).symm.trans ht)

/-- A running RECT that has a next state is on the surface and writes its cell. -/
theorem step_surf_of_rect (hp : s.phase = .rect) : inBounds s.w s.h s.cx.toInt s.cy.toInt = true ∧
    t.surf = s.surf.write (pixelAddr s.w s.cx.toInt s.cy.toInt) (pixelValue s.color) := by
  rw [step_of_unitToMove hm ((unitEnabled_iff s).2 (.inr (.inl hp)))] at ht
  obtain ⟨_, hp', -⟩ | ⟨-, hon, rfl⟩ | ⟨hp', -⟩ := unitStep_next ht
  · cases hp.symm.trans hp'
  · exact ⟨hon, rectAdvance_surf _⟩
  · cases hp.symm.trans hp'

theorem step_surf_of_line (hp : s.phase = .line) : t.surf =
    if inBounds s.w s.h s.cx.toInt s.cy.toInt = true then
      s.surf.write (pixelAddr s.w s.cx.toInt s.cy.toInt) (pixelValue s.color)
    else s.surf := by
  obtain rfl : afterLineRun (Safety.afterTurn s) = t :=
    Host.Outcome.next.inj ((step_line hm hp).symm.trans ht)
  rw [afterLineRun_eq]
  exact plot_surf (Safety.afterTurn s) _ _

theorem step_surf_of_disabled (he : unitEnabled s = false) : t.surf = s.surf := by
  obtain ⟨-, hu⟩ | ⟨rest, -, -, rfl⟩ | ⟨h, rest, hs, -⟩ := step_next ht
  · have he' : unitEnabled s = true := unitEnabled_of_unitStep_next (s := Safety.afterTurn s) hu
    cases he.symm.trans he'
  · rfl
  · obtain hn | ⟨_, hn⟩ := hm <;> simp [hs] at hn

end UnitTurn

/-- A pixel in bounds has a cell that exists. -/
theorem pixelAddr_lt_of_inBounds {w h : BitVec 16} {x y : Int} (hin : inBounds w h x y = true) :
    pixelAddr w x y < cellCount w h := by
  obtain ⟨hx, hxw, hy, hyh⟩ := (inBounds_iff w h x y).1 hin
  exact pixelAddr_lt_cellCount hx hxw hy hyh

/-- A surface of no width or no height has no pixel. -/
theorem inBounds_of_empty {w h : BitVec 16} (hempty : w = 0 ∨ h = 0) (x y : Int) :
    inBounds w h x y = false := by
  rw [Bool.eq_false_iff, ne_eq, inBounds_iff]
  obtain rfl | rfl := hempty <;> simp only [BitVec.ofNat_eq_ofNat, BitVec.toNat_zero] <;> omega

/-- Every drawn point is in bounds. -/
theorem inBounds_of_mem_draws {w h : BitVec 16} {i : Instr} {p : Int × Int} (hp : p ∈ draws w h i) :
    inBounds w h p.1 p.2 = true := by
  cases i with
  | point c a0 a1 a2 a3 =>
    by_cases hin : inBounds w h a0.toInt a1.toInt = true
    · rw [draws_point_of_inBounds hin, List.mem_singleton] at hp
      exact hp ▸ hin
    · rw [draws_point_of_not_inBounds hin] at hp
      cases hp
  | line c a0 a1 a2 a3 => exact (List.mem_filter.1 hp).2
  | rect c a0 a1 a2 a3 => exact inBounds_of_mem_draws_rect hp

theorem draws_of_empty {w h : BitVec 16} (hempty : w = 0 ∨ h = 0) (i : Instr) : draws w h i = [] :=
  List.eq_nil_iff_forall_not_mem.2 fun p hp => by
    cases (inBounds_of_mem_draws hp).symm.trans (inBounds_of_empty hempty p.1 p.2)

theorem cellCount_of_empty {w h : BitVec 16} (hempty : w = 0 ∨ h = 0) : cellCount w h = 0 := by
  obtain rfl | rfl := hempty
  · exact Nat.zero_mul _
  · exact Nat.mul_zero _

end Sys2Proof.Machine

namespace Sys2Proof.Proofs

open Sys2Proof.Machine

/-- Settles O43: an accept step, a RECT step and a LINE step each write their own pixel; a unit that
has no step enabled writes none. -/
theorem unitWritesAtMostOneCellPerStep : Obligations.UnitWritesAtMostOneCellPerStep := by
  refine fun s t hm ht => ⟨fun cmd hp ho hop hin => ?point, fun hp => ?rect, fun hp hin => ?line,
    fun hpoint hrect hline => ?other⟩
  case point =>
    exact ⟨pixelAddr_lt_of_inBounds hin,
      (step_surf_of_accept hm ht hp ho).trans (if_pos ⟨hop, hin⟩)⟩
  case rect =>
    obtain ⟨hin, hsurf⟩ := step_surf_of_rect hm ht hp
    exact ⟨hin, pixelAddr_lt_of_inBounds hin, hsurf⟩
  case line =>
    exact ⟨pixelAddr_lt_of_inBounds hin, (step_surf_of_line hm ht hp).trans (if_pos hin)⟩
  case other =>
    cases hp : s.phase with
    | idle =>
      cases ho : s.offer with
      | none => exact step_surf_of_disabled hm ht (by simp only [unitEnabled, hp, ho]; rfl)
      | some cmd =>
        exact (step_surf_of_accept hm ht hp ho).trans
          (if_neg fun ⟨hop, hin⟩ => hpoint ⟨cmd, hp, ho, hop, hin⟩)
    | rect => exact absurd hp hrect
    | line => exact (step_surf_of_line hm ht hp).trans (if_neg fun hin => hline ⟨hp, hin⟩)
    | fault => exact step_surf_of_disabled hm ht (by simp only [unitEnabled, hp])

/-- Settles O48: no pixel is in bounds, and every write of the unit is of a pixel in bounds. -/
theorem emptySurfaceDrawsNothing : Obligations.EmptySurfaceDrawsNothing := by
  intro s hempty
  have hout := inBounds_of_empty hempty
  refine ⟨cellCount_of_empty hempty, hout, draws_of_empty hempty, fun t hm ht => ?_⟩
  obtain ⟨-, hrect, -, hother⟩ := unitWritesAtMostOneCellPerStep s t hm ht
  refine hother ?_ (fun hp => ?_) ?_
  · rintro ⟨cmd, -, -, -, hin⟩
    cases hin.symm.trans (hout _ _)
  · cases (hrect hp).1.symm.trans (hout _ _)
  · rintro ⟨-, hin⟩
    cases hin.symm.trans (hout _ _)

end Sys2Proof.Proofs
end

section
/-! The invariant (10_state.md R50, 42_rect.md R118, 43_line.md R135, 60_exceptions.md R166, R167):
it holds after reset, and every step keeps it. -/

namespace Sys2Proof.Machine

variable {s t : State} {cmd : Command} {w h : BitVec 16} {m : Memory}

/-! The surface. -/

/-- The part of the invariant about the surface: in canonical form, and only cells that exist. -/
def SurfOk (w h : BitVec 16) (m : Memory) : Prop := m.wf ∧ ∀ p ∈ m, p.1 < cellCount w h

theorem surfOk_nil (w h : BitVec 16) : SurfOk w h [] := ⟨wf_nil, nofun⟩

theorem surfOk_write (hok : SurfOk w h m) {addr : Nat} (haddr : addr < cellCount w h) (v : Pixel) :
    SurfOk w h (m.write addr v) := by
  refine ⟨wf_write hok.1 addr v, fun p hp => ?_⟩
  obtain rfl | hp := mem_write hp
  · exact haddr
  · exact hok.2 p hp

theorem surfOk_paint (hok : SurfOk w h m) (c : Color) {points : List (Int × Int)}
    (hin : ∀ p ∈ points, inBounds w h p.1 p.2 = true) : SurfOk w h (paint w c points m) := by
  induction points generalizing m with
  | nil => exact hok
  | cons p points ih =>
    exact ih (surfOk_write hok (pixelAddr_lt_of_inBounds (hin p List.mem_cons_self)) _)
      fun q hq => hin q (List.mem_cons_of_mem p hq)

/-- An accept step writes a pixel in bounds or none. -/
theorem surfOk_acceptStep (hok : SurfOk s.w s.h s.surf) (ht : acceptStep cmd s = .next t) :
    SurfOk s.w s.h t.surf := by
  rw [acceptStep_surf ht]
  split
  case isTrue hwrite => exact surfOk_write hok (pixelAddr_lt_of_inBounds hwrite.2) _
  case isFalse => exact hok

/-- A run step writes a pixel in bounds or none. -/
theorem surfOk_of_drawn {points : List (Int × Int)} (hok : SurfOk s.w s.h s.surf)
    (hdrawn : Drawn points s t) : SurfOk t.w t.h t.surf := by
  rw [withRun_w hdrawn.frame, withRun_h hdrawn.frame, hdrawn.surf]
  exact surfOk_paint hok s.color fun p hp => (List.mem_filter.1 hp).2

/-! The invariant by phase. -/

theorem surfOk_of_stateOk (hok : Safety.StateOk s) : SurfOk s.w s.h s.surf :=
  ⟨hok.surfWf, hok.surfInRange⟩

theorem stateOk_of_idle (hsurf : SurfOk s.w s.h s.surf) (hp : s.phase = .idle)
    (hf : s.faultOp = 0) : Safety.StateOk s :=
  ⟨hsurf.1, hsurf.2, (nomatch hp.symm.trans ·), (nomatch hp.symm.trans ·),
    (nomatch hp.symm.trans ·), fun _ => hf⟩

theorem stateOk_of_rect {c : Clip} {e : Int} {k : Nat} (hsurf : SurfOk s.w s.h s.surf)
    (hat : RectAt c e k s) (hf : s.faultOp = 0) : Safety.StateOk s :=
  ⟨hsurf.1, hsurf.2, fun _ => hat.rectOk, (nomatch hat.phase.symm.trans ·),
    (nomatch hat.phase.symm.trans ·), fun _ => hf⟩

theorem stateOk_of_line {g : Segment} {k : Nat} (hsurf : SurfOk s.w s.h s.surf)
    (hat : LineAt g k s) (hf : s.faultOp = 0) : Safety.StateOk s :=
  ⟨hsurf.1, hsurf.2, (nomatch hat.phase.symm.trans ·), fun _ => hat.lineOk,
    (nomatch hat.phase.symm.trans ·), fun _ => hf⟩

theorem stateOk_of_fault (hsurf : SurfOk s.w s.h s.surf) (hp : s.phase = .fault)
    (hok : Safety.FaultOk s) : Safety.StateOk s :=
  ⟨hsurf.1, hsurf.2, (nomatch hp.symm.trans ·), (nomatch hp.symm.trans ·), fun _ => hok,
    (absurd hp ·)⟩

/-- The invariant does not look at the turns, the offer and what the host has read. -/
theorem stateOk_of_host (hok : Safety.StateOk s) (turns : List Turn) (offer : Option Command)
    (observed : List Observation) :
    Safety.StateOk { s with turns := turns, offer := offer, observed := observed } :=
  ⟨hok.surfWf, hok.surfInRange, hok.rectOk, hok.lineOk, hok.faultOk, hok.noFaultOp⟩

/-! The steps. -/

theorem acceptStep_keeps_stateOk (hok : Safety.StateOk s) (hp : s.phase = .idle)
    (ht : acceptStep cmd s = .next t) : Safety.StateOk t := by
  have hf : s.faultOp = 0 := hok.noFaultOp (hp ▸ nofun)
  have hsurf : SurfOk t.w t.h t.surf := by
    have hsize : surfaceSize t = surfaceSize s :=
      (congrArg surfaceSize (acceptStep_frame ht)).trans rfl
    obtain ⟨hw, hh⟩ := Prod.mk.inj hsize
    rw [hw, hh]
    exact surfOk_acceptStep (surfOk_of_stateOk hok) ht
  obtain ⟨u, hu, ⟨hop, rfl⟩ | ⟨hop, rfl⟩ | ⟨hop, rfl⟩ | ⟨hpoint, hline, hrect, rfl⟩⟩ :=
    acceptStep_next ht
  · exact stateOk_of_idle hsurf rfl (by rw [setPhase_faultOp, plot_faultOp, hu]; exact hf)
  · rw [hop] at hu
    exact stateOk_of_line hsurf (hu ▸ lineAt_zero _ _ _ _ _ (clearOffer s)) (hu ▸ hf)
  · rw [hop] at hu
    obtain ⟨hne, hstart⟩ | ⟨-, hstart⟩ := startRect_cases u <;> rw [hstart] at hsurf ⊢
    · subst hu
      exact stateOk_of_rect hsurf (rectAt_zero (s := clearOffer s) hne) hf
    · exact stateOk_of_idle hsurf rfl (hu ▸ hf)
  · subst hu
    exact stateOk_of_fault hsurf rfl ⟨rfl, hpoint, hline, hrect⟩

theorem afterRectRun_keeps_stateOk (hok : Safety.StateOk s) (hp : s.phase = .rect) :
    Safety.StateOk (afterRectRun s) := by
  obtain ⟨k, hat⟩ := exists_rectAt hp (hok.rectOk hp)
  have hdrawn := afterRectRun_drawn hat.onSurface
  have hsurf := surfOk_of_drawn (surfOk_of_stateOk hok) hdrawn
  have hf : (afterRectRun s).faultOp = 0 :=
    (congrArg State.faultOp hdrawn.frame).trans (hok.noFaultOp (hp ▸ nofun))
  obtain ⟨hnext, hdone⟩ := hat.moves_on
  obtain hlt | heq := (Nat.succ_le_of_lt hat.lt).lt_or_eq
  · exact stateOk_of_rect hsurf (hnext hlt) hf
  · exact stateOk_of_idle hsurf (hdone heq).1 hf

theorem afterLineRun_keeps_stateOk (hok : Safety.StateOk s) (hp : s.phase = .line) :
    Safety.StateOk (afterLineRun s) := by
  obtain ⟨k, hat⟩ := exists_lineAt hp (hok.lineOk hp)
  have hdrawn := afterLineRun_drawn s
  have hsurf := surfOk_of_drawn (surfOk_of_stateOk hok) hdrawn
  have hf : (afterLineRun s).faultOp = 0 :=
    (congrArg State.faultOp hdrawn.frame).trans (hok.noFaultOp (hp ▸ nofun))
  obtain ⟨hnext, hdone⟩ := hat.moves_on
  obtain hlt | heq := (Nat.succ_le_succ hat.le).lt_or_eq
  · exact stateOk_of_line hsurf (hnext hlt) hf
  · exact stateOk_of_idle hsurf (hdone heq) hf

theorem hostStep_keeps_stateOk {h : HostStep} (hok : Safety.StateOk s)
    (ht : hostStep h s = .next t) : Safety.StateOk t := by
  have hsurf := surfOk_of_stateOk hok
  obtain ⟨cmd, -, rfl⟩ | ⟨-, rfl⟩ | ⟨addr, v, -, hp, haddr, rfl⟩ | ⟨_, -, -, rfl⟩ | ⟨_, -, rfl⟩ |
    ⟨-, rfl⟩ := hostStep_cases ht
  · exact stateOk_of_host hok s.turns (some cmd) s.observed
  · exact stateOk_of_host hok s.turns none s.observed
  · exact stateOk_of_idle (surfOk_write hsurf haddr v) hp (hok.noFaultOp (hp ▸ nofun))
  · exact stateOk_of_host hok s.turns s.offer _
  · exact stateOk_of_host hok s.turns s.offer _
  · exact stateOk_of_idle hsurf rfl rfl

end Sys2Proof.Machine

namespace Sys2Proof.Proofs

open Sys2Proof.Machine

/-- Settles O53: IDLE, with no cell written. -/
theorem resetStateKeepsInvariant : Obligations.ResetStateKeepsInvariant := fun w h =>
  stateOk_of_idle (s := State.resetWith w h) (surfOk_nil w h) (resetWith_phase w h)
    (resetWith_faultOp w h)

/-- Settles O54: each kind of step keeps the invariant. -/
theorem stepKeepsInvariant : Obligations.StepKeepsInvariant := by
  intro s t hok ht
  have hturn (turns : List Turn) : Safety.StateOk (setTurns turns s) :=
    stateOk_of_host hok turns s.offer s.observed
  have hafter : Safety.StateOk (Safety.afterTurn s) := hturn s.turns.tail
  obtain ⟨cmd, -, hp, -, ha⟩ | ⟨hp, -, rfl⟩ | ⟨hp, rfl⟩ | ⟨rest, rfl⟩ | ⟨h, rest, -, hh⟩ :=
    step_next_cases ht
  · exact acceptStep_keeps_stateOk hafter hp ha
  · exact afterRectRun_keeps_stateOk hafter hp
  · exact afterLineRun_keeps_stateOk hafter hp
  · exact hturn rest
  · exact hostStep_keeps_stateOk (hturn rest) hh

end Sys2Proof.Proofs
end

section
/-! Statelessness (10_state.md section 9). What of a state can matter later depends on PHASE: in
IDLE and FAULT no latch and no walker register, in RECT all but `ERR`, in LINE all. To erase the
rest before a step changes nothing of what matters after it. -/

namespace Sys2Proof.Machine

variable {s s' : State} {p : Phase}

/-- The state with the registers erased that no later step sees when PHASE is `p`. -/
def eraseIn : Phase → State → State
  | .idle => Safety.visible
  | .rect => setErr 0
  | .line => id
  | .fault => Safety.visible

section EraseIn

variable (p : Phase) (s : State)

@[simp] theorem eraseIn_w : (eraseIn p s).w = s.w := by cases p <;> rfl
@[simp] theorem eraseIn_h : (eraseIn p s).h = s.h := by cases p <;> rfl
@[simp] theorem eraseIn_phase : (eraseIn p s).phase = s.phase := by cases p <;> rfl
@[simp] theorem eraseIn_turns : (eraseIn p s).turns = s.turns := by cases p <;> rfl

/-- What a host can tell is never erased. -/
theorem visible_eraseIn : Safety.visible (eraseIn p s) = Safety.visible s := by cases p <;> rfl

theorem eraseIn_eraseIn : eraseIn p (eraseIn p s) = eraseIn p s := by cases p <;> rfl

theorem unitEnabled_eraseIn : unitEnabled (eraseIn p s) = unitEnabled s := by cases p <;> rfl

theorem setTurns_eraseIn (turns : List Turn) :
    setTurns turns (eraseIn p s) = eraseIn p (setTurns turns s) := by cases p <;> rfl

theorem setOffer_eraseIn (cmd : Command) :
    setOffer cmd (eraseIn p s) = eraseIn p (setOffer cmd s) := by cases p <;> rfl

theorem clearOffer_eraseIn : clearOffer (eraseIn p s) = eraseIn p (clearOffer s) := by
  cases p <;> rfl

theorem surfWrite_eraseIn (addr : Nat) (v : Pixel) :
    surfWrite addr v (eraseIn p s) = eraseIn p (surfWrite addr v s) := by cases p <;> rfl

theorem observeCell_eraseIn (addr : Nat) :
    observe (.cell addr (surfRead (eraseIn p s) addr)) (eraseIn p s) =
      eraseIn p (observe (.cell addr (surfRead s addr)) s) := by cases p <;> rfl

theorem observeReg_eraseIn (r : HostReg) :
    observe (.reg r (readHostReg r (eraseIn p s))) (eraseIn p s) =
      eraseIn p (observe (.reg r (readHostReg r s)) s) := by cases p <;> cases r <;> rfl

/-- A reset overwrites every register that can be erased. -/
theorem resetUnit_eraseIn : resetUnit (eraseIn p s) = resetUnit s := by cases p <;> rfl

end EraseIn

/-- What of a state a later step can see. -/
def relevant (s : State) : State := eraseIn s.phase s

/-- What of an outcome a later step can see. -/
def relevantOutcome : Host.Outcome State Fault Refusal → Host.Outcome State Fault Refusal
  | .next s => .next (relevant s)
  | .fault r => .fault r
  | .refused r => .refused r

/-- To erase first what is erased anyway makes no difference. -/
theorem relevantOutcome_next_eraseIn (h : s.phase = p) :
    relevantOutcome (.next (eraseIn p s)) = relevantOutcome (.next s) := by
  subst h
  exact congrArg Host.Outcome.next ((congrArg (eraseIn · _) (eraseIn_phase _ s)).trans
    (eraseIn_eraseIn _ s))

/-! The host. -/

theorem hostStep_eraseIn (h : HostStep) (s : State) :
    relevantOutcome (hostStep h (eraseIn s.phase s)) = relevantOutcome (hostStep h s) := by
  cases h with
  | offer cmd =>
    rw [hostStep, setOffer_eraseIn]
    exact relevantOutcome_next_eraseIn rfl
  | withdraw =>
    rw [hostStep, clearOffer_eraseIn]
    exact relevantOutcome_next_eraseIn rfl
  | writeCell addr v =>
    simp only [hostStep, hostWriteCell, eraseIn_phase, eraseIn_w, eraseIn_h, surfWrite_eraseIn]
    split
    · split
      · exact relevantOutcome_next_eraseIn rfl
      · rfl
    · rfl
  | readCell addr =>
    simp only [hostStep, hostReadCell, eraseIn_w, eraseIn_h, observeCell_eraseIn]
    split
    · exact relevantOutcome_next_eraseIn rfl
    · rfl
  | readReg r =>
    rw [hostStep, hostReadReg, observeReg_eraseIn]
    exact relevantOutcome_next_eraseIn rfl
  | reset => rw [hostStep, resetUnit_eraseIn]; rfl

/-! The unit. -/

/-- Erasing the walker: what is left of erasing all once the latches are written. -/
def eraseWalker (s : State) : State := { s with cx := 0, cy := 0, err := 0 }

theorem plot_eraseWalker (x y : Int) (s : State) :
    plot x y (eraseWalker s) = eraseWalker (plot x y s) :=
  (apply_ite eraseWalker (onSurface s x y = true) (setPixel x y s.color s) s).symm

/-- The start of a RECT writes the position or ends in IDLE, and `ERR` does not matter. -/
theorem startRect_eraseWalker (s : State) :
    relevant (startRect (eraseWalker s)) = relevant (startRect s) := by
  by_cases hne : clipNonEmpty (clipOf s) = true
  · have hne' : clipNonEmpty (clipOf (eraseWalker s)) = true := hne
    rw [startRect, startRect, if_pos hne, if_pos hne']
    rfl
  · have hne' : ¬clipNonEmpty (clipOf (eraseWalker s)) = true := hne
    rw [startRect, startRect, if_neg hne, if_neg hne']
    rfl

/-- A POINT leaves the walker, which no one can tell in IDLE. -/
theorem execPoint_visible (c : Color) (a0 a1 a2 a3 : Word) (s : State) :
    relevantOutcome (execPoint c a0 a1 a2 a3 (Safety.visible s)) =
      relevantOutcome (execPoint c a0 a1 a2 a3 s) :=
  (congrArg (fun t => Host.Outcome.next (Safety.visible (setPhase .idle t)))
    (plot_eraseWalker a0.toInt a1.toInt (latch opPoint c a0 a1 a2 a3 s))).trans rfl

/-- An accept step overwrites the latches, and the walker where the command uses it. -/
theorem acceptStep_visible (cmd : Command) (s : State) :
    relevantOutcome (acceptStep cmd (Safety.visible s)) = relevantOutcome (acceptStep cmd s) := by
  unfold acceptStep
  obtain ⟨hop, hd⟩ | ⟨hop, hd⟩ | ⟨hop, hd⟩ | ⟨-, -, -, hd⟩ := decode_cases cmd <;> rw [hd]
  · exact execPoint_visible _ _ _ _ _ (clearOffer s)
  · rfl
  · exact congrArg Host.Outcome.next (startRect_eraseWalker (latch opRect _ _ _ _ _ (clearOffer s)))
  · rfl

/-- A RECT run step does not see `ERR`. -/
theorem rectRun_setErr (e : Int) (s : State) : rectRun (setErr e s) =
    if onSurface s s.cx.toInt s.cy.toInt = true then .next (setErr e (afterRectRun s))
    else .fault .setPixelOffSurface := by
  rw [afterRectRun, rectAdvance, apply_ite (setErr e), apply_ite (setErr e)]
  rfl

theorem relevant_setErr (hp : s.phase = .rect ∨ s.phase = .idle) (e : Int) :
    relevant (setErr e s) = relevant s := by
  have hphase : (setErr e s).phase = s.phase := rfl
  unfold relevant
  obtain hp | hp := hp <;> rw [hphase, hp] <;> rfl

theorem rectRun_relevant (hp : s.phase = .rect) (e : Int) :
    relevantOutcome (rectRun (setErr e s)) = relevantOutcome (rectRun s) := by
  rw [rectRun_setErr, rectRun]
  split
  · exact congrArg Host.Outcome.next (relevant_setErr
      (rectAdvance_phase (s := setPixel s.cx.toInt s.cy.toInt s.color s) hp) e)
  · rfl

theorem unitStep_relevant (s : State) :
    relevantOutcome (unitStep (relevant s)) = relevantOutcome (unitStep s) := by
  unfold relevant
  cases hp : s.phase with
  | idle =>
    have hp' : (Safety.visible s).phase = .idle := hp
    have ho : (Safety.visible s).offer = s.offer := rfl
    simp only [eraseIn, unitStep, hp, hp', ho]
    cases s.offer with
    | none => rfl
    | some cmd => exact acceptStep_visible cmd s
  | rect =>
    have hp' : (setErr 0 s).phase = .rect := hp
    simp only [eraseIn, unitStep, hp, hp']
    exact rectRun_relevant hp 0
  | line => rfl
  | fault =>
    have hp' : (Safety.visible s).phase = .fault := hp
    simp only [eraseIn, unitStep, hp, hp']
    rfl

theorem unitTurn_relevant (s : State) :
    relevantOutcome (unitTurn (relevant s)) = relevantOutcome (unitTurn s) := by
  have he : unitEnabled (relevant s) = unitEnabled s := unitEnabled_eraseIn s.phase s
  rw [unitTurn, unitTurn, he]
  split
  · exact unitStep_relevant s
  · exact relevantOutcome_next_eraseIn rfl

/-! The machine. -/

/-- A step does not see what is erased. -/
theorem step_relevant (s : State) :
    relevantOutcome (step (relevant s)) = relevantOutcome (step s) := by
  have hturns : (relevant s).turns = s.turns := eraseIn_turns s.phase s
  have hset (rest : List Turn) : setTurns rest (relevant s) = relevant (setTurns rest s) :=
    setTurns_eraseIn s.phase s rest
  unfold step
  rw [hturns]
  split
  · exact unitStep_relevant s
  · rw [hset]
    exact unitTurn_relevant _
  · rw [hset]
    exact hostStep_eraseIn _ _

/-- Runs from states that agree in what is relevant show a host the same. -/
theorem runFor_visible (n : Nat) (h : relevant s = relevant s') :
    Safety.visibleOutcome (Safety.runFor n s) = Safety.visibleOutcome (Safety.runFor n s') := by
  induction n generalizing s s' with
  | zero =>
    have hvisible := congrArg Safety.visible h
    rw [relevant, relevant, visible_eraseIn, visible_eraseIn] at hvisible
    exact congrArg Host.Outcome.next hvisible
  | succ n ih =>
    have hstep : relevantOutcome (step s) = relevantOutcome (step s') := by
      rw [← step_relevant s, h, step_relevant s']
    rw [Safety.runFor, Safety.runFor]
    cases hs : step s <;> cases hs' : step s' <;> rw [hs, hs'] at hstep
    case next.next t t' => exact ih (Host.Outcome.next.inj hstep)
    case fault.fault => exact hstep
    case refused.refused => exact hstep
    all_goals cases hstep

end Sys2Proof.Machine

namespace Sys2Proof.Proofs

open Sys2Proof.Machine

/-- Settles O45: in IDLE what is relevant is what a host can tell, and every step keeps the
agreement in what is relevant. -/
theorem hiddenRegistersDoNotMatterInIdle : Obligations.HiddenRegistersDoNotMatterInIdle := by
  intro s s' n hp hvisible
  have hp' : s'.phase = .idle := (congrArg State.phase hvisible).symm.trans hp
  refine runFor_visible n ?_
  rw [relevant, relevant, hp, hp']
  exact hvisible

end Sys2Proof.Proofs
end

section
/-! The command cycle at the ports (40_command_cycle.md section 2): the offered command runs next,
and a unit without an enabled step sits still; what the host reads, offers and resets. -/

namespace Sys2Proof.Machine

variable {s : State} {cmd : Command} {i : Instr} {rest : List Turn}

/-- The unit's listed turn, with a command on offer in IDLE. -/
theorem step_of_command_turn (hs : s.turns = .unit :: rest) (hp : s.phase = .idle)
    (ho : s.offer = some cmd) (hd : decode cmd = .ok i) :
    step s = exec i (clearOffer (setTurns rest s)) := by
  rw [step_accepts (.inr ⟨rest, hs⟩) hp ho, acceptStep_of_decode hd, Safety.afterTurn, hs,
    List.tail_cons]

theorem decode_of_decodeTableWord {nbits w : Nat} (h : decodeTableWord nbits w = some i) :
    decode (tableWord nbits w) = .ok i := by
  unfold decodeTableWord at h
  split at h
  · split at h
    · rename_i hd
      rw [hd, Option.some.inj h]
    · cases h
  · cases h

theorem unitEnabled_of_idle_none (hp : s.phase = .idle) (ho : s.offer = none) :
    unitEnabled s = false := by
  simp only [unitEnabled, hp, ho, Option.isSome_none]

theorem unitEnabled_of_fault (hp : s.phase = .fault) : unitEnabled s = false := by
  simp only [unitEnabled, hp]

theorem step_idle_none (hs : s.turns = []) (hp : s.phase = .idle) (ho : s.offer = none) :
    step s = .refused .noCommandOffered := by
  simp only [step, hs, unitStep, hp, ho]

theorem step_fault (hs : s.turns = []) (hp : s.phase = .fault) :
    step s = .fault (.illegalCommand s.faultOp) := by
  simp only [step, hs, unitStep, hp]

theorem runFor_one (s : State) : Safety.runFor 1 s = step s := by
  rw [Safety.runFor]
  cases step s <;> rfl

/-- A word that the host offers to an IDLE unit runs at the unit's next turn. -/
theorem runFor_offer (hp : s.phase = .idle) (hs : s.turns = .host (.offer cmd) :: .unit :: rest)
    (hd : decode cmd = .ok i) :
    Safety.runFor 2 s = exec i { s with offer := none, turns := rest } := by
  have hoffer : step s = .next (setOffer cmd (setTurns (.unit :: rest) s)) := step_hostTurn hs
  rw [Safety.runFor, hoffer]
  exact (runFor_one _).trans (step_of_command_turn rfl hp rfl hd)

/-! What the host reads. -/

theorem surfRead_of_written {addr : Nat} {v : Pixel} (h : s.surf.read? addr = some v) :
    surfRead s addr = v := by
  rw [surfRead, h, Option.getD_some]

theorem surfRead_of_unwritten {addr : Nat} (h : s.surf.read? addr = none) :
    surfRead s addr = Config.surfInit s.resetCount addr := by
  rw [surfRead, h, Option.getD_none]

theorem hostReadCell_out_of_range {addr : Nat} (h : ¬addr < cellCount s.w s.h) :
    hostReadCell addr s = .refused (.hostCellOutOfRange addr) := if_neg h

theorem step_readReg {r : HostReg} (hs : s.turns = .host (.readReg r) :: rest) :
    step s = .next (observe (.reg r (readHostReg r s)) (setTurns rest s)) := step_hostTurn hs

/-- A register of at most 16 bits is read at its own value. -/
theorem toNat_setWidth_of_le {n : Nat} (hn : n ≤ 16) (v : BitVec n) :
    (v.setWidth 16).toNat = v.toNat := by
  rw [BitVec.toNat_setWidth, Nat.mod_eq_of_lt (v.isLt.trans_le (Nat.pow_le_pow_right two_pos hn))]

/-! The channels of the interpreter's colour. -/

section HostColor

variable (narrow : Word → Byte) (a0 a1 a2 : Word)

theorem hostColor_red : (hostColor narrow a0 a1 a2).extractLsb' 0 8 = narrow a0 :=
  BitVec.extractLsb'_append_eq_right

theorem hostColor_green : (hostColor narrow a0 a1 a2).extractLsb' 8 8 = narrow a1 :=
  (BitVec.extractLsb'_append_eq_of_le (by decide)).trans BitVec.extractLsb'_append_eq_right

theorem hostColor_blue : (hostColor narrow a0 a1 a2).extractLsb' 16 8 = narrow a2 :=
  (BitVec.extractLsb'_append_eq_of_le (by decide)).trans BitVec.extractLsb'_append_eq_left

/-- The word that a draw instruction offers carries the current colour. -/
theorem exists_packCommand_of_offer {color : Color} {b0 b1 b2 b3 : Word} {cmd : Command}
    (hoffer : hostPoint color b0 b1 = .offer cmd ∨ hostLine color b0 b1 b2 b3 = .offer cmd ∨
      hostRect color b0 b1 b2 b3 = .offer cmd) :
    ∃ op c2 c3, cmd = packCommand op color b0 b1 c2 c3 := by
  obtain h | h | h := hoffer <;> cases h <;> exact ⟨_, _, _, rfl⟩

end HostColor

end Sys2Proof.Machine

namespace Sys2Proof.Proofs

open Sys2Proof.Machine

/-- Settles O7: the accept step of a word that decodes is `exec` of its command. -/
theorem stepRunsTheOfferedCommand : Obligations.StepRunsTheOfferedCommand :=
  ⟨fun _ _ _ hp ho hd => ⟨fun hs => step_of_command hs hp ho hd,
      fun _ hs => step_of_command_turn hs hp ho hd⟩,
    fun s nbits w _ h => step_of_command (s := s.withFetchWord nbits w) rfl rfl rfl
      (decode_of_decodeTableWord h)⟩

/-- Settles O10: the two stops by PHASE, and the passed turn where the unit is not enabled. -/
theorem disabledUnitTakesNoStep : Obligations.DisabledUnitTakesNoStep := by
  refine ⟨fun _ => step_idle_none, fun _ => step_fault, fun s rest hs hdisabled => ?_⟩
  obtain ⟨hp, ho⟩ | hp := hdisabled
  · exact step_of_passedTurn hs (unitEnabled_of_idle_none hp ho)
  · exact step_of_passedTurn hs (unitEnabled_of_fault hp)

/-- Settles O38: the read notes `surfRead` of the cell. -/
theorem hostReadsTheCellItAsksFor : Obligations.HostReadsTheCellItAsksFor := fun _ _ _ hs =>
  ⟨fun hlt => ⟨_, step_readCell hs hlt, fun _ => surfRead_of_written, surfRead_of_unwritten⟩,
    fun hge => ⟨_, (step_hostTurn hs).trans (hostReadCell_out_of_range hge)⟩⟩

/-- Settles O40: the read notes `readHostReg`, which is each register at its own value. -/
theorem hostReadsTheNumberedRegisters : Obligations.HostReadsTheNumberedRegisters := by
  intro s r rest hs
  refine ⟨_, step_readReg hs, ?cr0, ?cr1, ?sr0, ?sr1, rfl⟩
  case cr0 => rintro rfl; rfl
  case cr1 => rintro rfl; rfl
  case sr0 =>
    rintro rfl
    refine (toNat_setWidth_of_le (by decide) (phaseCode s.phase)).trans ?_
    cases s.phase <;> rfl
  case sr1 =>
    rintro rfl
    exact toNat_setWidth_of_le (by decide) s.faultOp

/-- Settles O41: the offered word is the packed command, and it decodes to that command. -/
theorem hostInstructionsOfferTheirCommands : Obligations.HostInstructionsOfferTheirCommands :=
  fun c a0 a1 a2 a3 _ _ hp =>
    ⟨⟨_, rfl, cmdOp_packCommand .., cmdColor_packCommand .., cmdA0_packCommand ..,
        cmdA1_packCommand ..⟩,
      ⟨_, rfl, cmdOp_packCommand .., cmdColor_packCommand .., cmdA0_packCommand ..,
        cmdA1_packCommand .., cmdA2_packCommand .., cmdA3_packCommand ..⟩,
      ⟨_, rfl, cmdOp_packCommand .., cmdColor_packCommand .., cmdA0_packCommand ..,
        cmdA1_packCommand .., cmdA2_packCommand .., cmdA3_packCommand ..⟩,
      fun hs => runFor_offer hp hs (decode_encode (.point c a0 a1 0 0)),
      fun hs => runFor_offer hp hs (decode_encode (.line c a0 a1 a2 a3)),
      fun hs => runFor_offer hp hs (decode_encode (.rect c a0 a1 a2 a3))⟩

/-- Settles O51: a reset leaves the surface, and the IDLE unit has nothing on offer. -/
theorem resetAbandonsARunningCommand : Obligations.ResetAbandonsARunningCommand :=
  fun s _ ho hs => ⟨_, step_reset hs, resetUnit_phase _, resetUnit_surf _,
    fun _ _ => surfRead_of_written (s := resetUnit (setTurns [] s)),
    step_idle_none rfl (resetUnit_phase _) ho⟩

/-- Settles O56: a channel of the offered word is that of its colour. -/
theorem hostColourFillsTheChannels : Obligations.HostColourFillsTheChannels := by
  intro narrow a0 a1 a2 b0 b1 b2 b3 cmd hoffer
  obtain ⟨op, c2, c3, rfl⟩ := exists_packCommand_of_offer hoffer
  exact ⟨(channel_packCommand op 0 (by decide)).trans (hostColor_red narrow a0 a1 a2),
    (channel_packCommand op 8 (by decide)).trans (hostColor_green narrow a0 a1 a2),
    (channel_packCommand op 16 (by decide)).trans (hostColor_blue narrow a0 a1 a2)⟩

end Sys2Proof.Proofs
end
